-- ==== Sys2Proof/Word.lean ====
section
/-! DEFINITION. The two word types of the block: a byte of buffer memory and a 32-bit CRC or register value
(00_scope.md R9: every value is unsigned, bits are numbered from 0, the least significant). -/

namespace Sys2Proof

/-- One byte of buffer memory (20_memory.md R61). -/
abbrev Byte := BitVec 8

/-- A CRC value or an interface register (00_scope.md R2, 10_state.md R23). -/
abbrev Word := BitVec 32

end Sys2Proof
end

