-- ==== Sys2Proof/Syntax.lean ====
section
/-! DEFINITION. The instructions: the four commands a host issues through `CMD` (30_encoding.md R91) and the ten
micro-ops the sequencer runs (R100), one constructor per row of spec/opcode_table.json. -/

namespace Sys2Proof

/-- `FLAG_KIND`: what the caller passed as the path flag (30_encoding.md R93; value 3 is reserved and has no name). -/
inductive FlagKind where
  | bool
  | notBool
  | absent
deriving DecidableEq, Repr

/-- `DATA_KIND`: what the caller passed as the data (30_encoding.md R93). -/
inductive DataKind where
  | bytes
  | text
  | absent
  | other
deriving DecidableEq, Repr

/-- `INIT_KIND`: what the caller passed as the initial CRC (30_encoding.md R93; value 3 is reserved and has no name). -/
inductive InitKind where
  | default
  | u32
  | notU32
deriving DecidableEq, Repr

/-- The commands and micro-ops. `USE_HW` is the constructor's own choice: 0 in `calcSw`, 1 in `calcHw`. -/
inductive Instr where
  /-- FEATQ (R120). -/
  | featq
  /-- TBLGEN (R136). -/
  | tblgen
  /-- CALC.SW (R150). -/
  | calcSw (flag : FlagKind) (data : DataKind) (init : InitKind)
  /-- CALC.HW (R180). -/
  | calcHw (flag : FlagKind) (data : DataKind) (init : InitKind)
  /-- U_TG_BASE with table index `i` (R132). -/
  | uTgBase (i : BitVec 8)
  /-- U_TG_SLICE with slice `j` (1 to 7) and table index `i` (R133). -/
  | uTgSlice (j : BitVec 3) (i : BitVec 8)
  /-- U_INIT (R152). -/
  | uInit
  /-- U_SW_BYTE (R153). -/
  | uSwByte
  /-- U_SW_SLICE8 (R154). -/
  | uSwSlice8
  /-- U_HW_FOLD1 (R181). -/
  | uHwFold1
  /-- U_HW_FOLD2 (R182). -/
  | uHwFold2
  /-- U_HW_FOLD4 (R183). -/
  | uHwFold4
  /-- U_HW_FOLD8 (R184). -/
  | uHwFold8
  /-- U_FINAL (R155). -/
  | uFinal
deriving DecidableEq, Repr

/-- Whether the instruction is a command (a 32-bit word) rather than a micro-op (a 16-bit label). -/
def Instr.isCommand : Instr → Bool
  | .featq | .tblgen | .calcSw _ _ _ | .calcHw _ _ _ => true
  | .uTgBase _ | .uTgSlice _ _ | .uInit | .uSwByte | .uSwSlice8 | .uHwFold1 | .uHwFold2 | .uHwFold4 | .uHwFold8
  | .uFinal => false

end Sys2Proof
end

