-- ==== Sys2Proof/WellFormed.lean ====
section
/-! DEFINITION. Which terms of `Instr` are instructions of the block. The argument kinds, the table index and the
absence of operands are in the types; the one check left is the slice number of U_TG_SLICE. -/

namespace Sys2Proof

/-- 30_encoding.md R99: `J` is the slice number for U_TG_SLICE, 1 to 7; slice 0 is U_TG_BASE's. -/
def Instr.wf : Instr → Bool
  | .uTgSlice j _ => j != 0#3
  | .featq | .tblgen | .calcSw _ _ _ | .calcHw _ _ _ | .uTgBase _ | .uInit | .uSwByte | .uSwSlice8 | .uHwFold1
  | .uHwFold2 | .uHwFold4 | .uHwFold8 | .uFinal => true

end Sys2Proof
end

