-- ==== Sys2Proof/Decode.lean ====
section
/-! DEFINITION. The command-word decoder of 30_encoding.md R95, the decoder of micro-op labels (R99, R100), and after
them the encoder, from the same tables. Both decoders are total and reject by name. -/

namespace Sys2Proof

/-- Why a word is no instruction. The first five are the `ILLEGAL` words of R95; the others are labels that name no
micro-op (R99, R100). -/
inductive DecodeError where
  /-- Bit [5] or a bit of [31:12] of a command word is 1 (R94). -/
  | reservedBits
  /-- `OP` is 0x0 or 0x4 to 0xF (R94). -/
  | reservedOp
  /-- A bit of [11:4] of a FEATQ or TBLGEN word is 1 (R94). -/
  | operandBits
  /-- `FLAG_KIND` is 3 (R94). -/
  | reservedFlagKind
  /-- `INIT_KIND` is 3 (R94). -/
  | reservedInitKind
  /-- Bit [7] of a label is 1 (R99). -/
  | reservedLabelBit
  /-- `UCODE` is 0x0 or 0xB to 0xF (R100). -/
  | unusedMicroCode
  /-- `J` is not 0 in a label other than U_TG_SLICE's (R99). -/
  | strayJ
  /-- `J` is 0 in a U_TG_SLICE label (R99: 1 to 7). -/
  | sliceZero
  /-- `I` is not 0 in a label other than U_TG_BASE's and U_TG_SLICE's (R99). -/
  | strayI
deriving DecidableEq, Repr

/-! ## The argument-kind fields (R93) -/

def FlagKind.ofBits (v : BitVec 2) : Option FlagKind :=
  if v = 0#2 then some .bool else if v = 1#2 then some .notBool else if v = 2#2 then some .absent else none

def FlagKind.toBits : FlagKind → BitVec 2
  | .bool => 0#2
  | .notBool => 1#2
  | .absent => 2#2

def DataKind.ofBits (v : BitVec 2) : DataKind :=
  if v = 0#2 then .bytes else if v = 1#2 then .text else if v = 2#2 then .absent else .other

def DataKind.toBits : DataKind → BitVec 2
  | .bytes => 0#2
  | .text => 1#2
  | .absent => 2#2
  | .other => 3#2

def InitKind.ofBits (v : BitVec 2) : Option InitKind :=
  if v = 0#2 then some .default else if v = 1#2 then some .u32 else if v = 2#2 then some .notU32 else none

def InitKind.toBits : InitKind → BitVec 2
  | .default => 0#2
  | .u32 => 1#2
  | .notU32 => 2#2

/-! ## The decoders -/

/-- The operands of a CALC word: `FLAG_KIND` [7:6], `DATA_KIND` [9:8], `INIT_KIND` [11:10], and `USE_HW` [4] (R90). -/
def decodeCalc (w : BitVec 32) : Except DecodeError Instr :=
  match FlagKind.ofBits (w.extractLsb' 6 2) with
  | none => .error .reservedFlagKind
  | some f =>
    match InitKind.ofBits (w.extractLsb' 10 2) with
    | none => .error .reservedInitKind
    | some k =>
      if w.getLsbD 4 then .ok (.calcHw f (DataKind.ofBits (w.extractLsb' 8 2)) k)
      else .ok (.calcSw f (DataKind.ofBits (w.extractLsb' 8 2)) k)

/-- A command with no operands: bits [11:4] must be 0 (R91). -/
def decodePlain (i : Instr) (w : BitVec 32) : Except DecodeError Instr :=
  if w.extractLsb' 4 8 = 0#8 then .ok i else .error .operandBits

/-- `Decode` of R95: an error is the spec's `ILLEGAL`. -/
def decodeCommand (w : BitVec 32) : Except DecodeError Instr :=
  if w.extractLsb' 12 20 ≠ 0#20 ∨ w.getLsbD 5 = true then .error .reservedBits
  else if w.extractLsb' 0 4 = 1#4 then decodePlain .featq w
  else if w.extractLsb' 0 4 = 2#4 then decodePlain .tblgen w
  else if w.extractLsb' 0 4 = 3#4 then decodeCalc w
  else .error .reservedOp

/-- A label whose `I` and `J` must be 0 (R99). -/
def decodeBare (i : Instr) (l : BitVec 16) : Except DecodeError Instr :=
  if l.extractLsb' 4 3 ≠ 0#3 then .error .strayJ
  else if l.extractLsb' 8 8 ≠ 0#8 then .error .strayI
  else .ok i

/-- A U_TG_BASE label: `I` is its operand, `J` must be 0 (R99). -/
def decodeTgBase (l : BitVec 16) : Except DecodeError Instr :=
  if l.extractLsb' 4 3 ≠ 0#3 then .error .strayJ else .ok (.uTgBase (l.extractLsb' 8 8))

/-- A U_TG_SLICE label: `J` is 1 to 7 (R99). -/
def decodeTgSlice (l : BitVec 16) : Except DecodeError Instr :=
  if l.extractLsb' 4 3 = 0#3 then .error .sliceZero
  else .ok (.uTgSlice (l.extractLsb' 4 3) (l.extractLsb' 8 8))

/-- The micro-op a 16-bit label names (R99, R100). -/
def decodeLabel (l : BitVec 16) : Except DecodeError Instr :=
  if l.getLsbD 7 then .error .reservedLabelBit
  else if l.extractLsb' 0 4 = 0x1#4 then decodeTgBase l
  else if l.extractLsb' 0 4 = 0x2#4 then decodeTgSlice l
  else if l.extractLsb' 0 4 = 0x3#4 then decodeBare .uInit l
  else if l.extractLsb' 0 4 = 0x4#4 then decodeBare .uSwByte l
  else if l.extractLsb' 0 4 = 0x5#4 then decodeBare .uSwSlice8 l
  else if l.extractLsb' 0 4 = 0x6#4 then decodeBare .uHwFold1 l
  else if l.extractLsb' 0 4 = 0x7#4 then decodeBare .uHwFold2 l
  else if l.extractLsb' 0 4 = 0x8#4 then decodeBare .uHwFold4 l
  else if l.extractLsb' 0 4 = 0x9#4 then decodeBare .uHwFold8 l
  else if l.extractLsb' 0 4 = 0xA#4 then decodeBare .uFinal l
  else .error .unusedMicroCode

/-- The encodings of the block: a command word (R90) or a micro-op label (R99). -/
inductive Encoding where
  | command (w : BitVec 32)
  | label (l : BitVec 16)
deriving DecidableEq, Repr

/-- The decoder over both kinds of encoding. -/
def decode : Encoding → Except DecodeError Instr
  | .command w => decodeCommand w
  | .label l => decodeLabel l

/-- The instruction the decoder reads from an encoding of `nbits` bits whose value is `w`: 32 bits are a command word,
16 bits a micro-op label (the two encodings of 30_encoding.md; R101: no other length exists). -/
def decodeTableWord (nbits w : Nat) : Option Instr :=
  if nbits = 32 ∧ w < 2 ^ 32 then (decodeCommand (BitVec.ofNat 32 w)).toOption
  else if nbits = 16 ∧ w < 2 ^ 16 then (decodeLabel (BitVec.ofNat 16 w)).toOption
  else none

/-! ## The encoder -/

/-- A CALC word: `0x3 | USE_HW<<4 | FLAG_KIND<<6 | DATA_KIND<<8 | INIT_KIND<<10` (R97). -/
def encodeCalc (useHw : BitVec 1) (f : FlagKind) (d : DataKind) (k : InitKind) : BitVec 32 :=
  3#32 ||| useHw.setWidth 32 <<< 4 ||| f.toBits.setWidth 32 <<< 6 ||| d.toBits.setWidth 32 <<< 8
    ||| k.toBits.setWidth 32 <<< 10

/-- A label: `I` [15:8], `J` [6:4], `UCODE` [3:0], bit [7] reserved (R99). -/
def encodeLabel (i : BitVec 8) (j : BitVec 3) (ucode : BitVec 4) : BitVec 16 :=
  ucode.setWidth 16 ||| j.setWidth 16 <<< 4 ||| i.setWidth 16 <<< 8

/-- The word or label of an instruction (R90, R91, R99, R100). -/
def encode : Instr → Encoding
  | .featq => .command 0x00000001#32
  | .tblgen => .command 0x00000002#32
  | .calcSw f d k => .command (encodeCalc 0#1 f d k)
  | .calcHw f d k => .command (encodeCalc 1#1 f d k)
  | .uTgBase i => .label (encodeLabel i 0#3 0x1#4)
  | .uTgSlice j i => .label (encodeLabel i j 0x2#4)
  | .uInit => .label (encodeLabel 0#8 0#3 0x3#4)
  | .uSwByte => .label (encodeLabel 0#8 0#3 0x4#4)
  | .uSwSlice8 => .label (encodeLabel 0#8 0#3 0x5#4)
  | .uHwFold1 => .label (encodeLabel 0#8 0#3 0x6#4)
  | .uHwFold2 => .label (encodeLabel 0#8 0#3 0x7#4)
  | .uHwFold4 => .label (encodeLabel 0#8 0#3 0x8#4)
  | .uHwFold8 => .label (encodeLabel 0#8 0#3 0x9#4)
  | .uFinal => .label (encodeLabel 0#8 0#3 0xA#4)

end Sys2Proof
end

