-- ==== Sys2Proof/Config.lean ====
section
/-! DEFINITION. The implementation parameters of 00_scope.md R8, as plain data (`Platform`), and the constants that
have no body: the OPEN parameters of the one platform `State.reset` starts on, and the free values of
93_implementation_defined.md (treatment `any value`). -/

namespace Sys2Proof

/-- `ADDR_W`, the width of buffer addresses and lengths: 32 or 64 (00_scope.md R8). -/
inductive AddrWidth where
  | w32
  | w64
deriving DecidableEq, Repr, Inhabited

/-- The number of address bits. -/
def AddrWidth.bits : AddrWidth → Nat
  | .w32 => 32
  | .w64 => 64

/-- The widths in bytes of a buffer read (20_memory.md R64). -/
inductive ReadWidth where
  | one
  | two
  | four
  | eight
deriving DecidableEq, Repr

/-- The number of bytes a read of this width takes. -/
def ReadWidth.bytes : ReadWidth → Nat
  | .one => 1
  | .two => 2
  | .four => 4
  | .eight => 8

/-- One region in which the platform admits buffer reads of the listed widths. A list of regions says `MEM_ADMIT`
as plain data: every predicate on the reads of the address space is such a list (Laws/Platform.lean,
`regions_express_every_predicate`). -/
structure AdmitRegion where
  base   : Nat
  size   : Nat
  widths : List ReadWidth
deriving DecidableEq, Repr

/-- The parameters of 00_scope.md R8 that a run is fixed on (10_state.md R21). `HW_PRESENT` is derived from them
(Machine/Flags.lean); `POLY` and the table's shape are fixed (Machine/Crc.lean); `REG_SUBWORD` has no value here, so
a model refuses the accesses it governs (10_state.md R58). -/
structure Platform where
  /-- `ADDR_W`. -/
  addrW          : AddrWidth
  /-- `CRC_BASE`, where the register block stands in the host's address space. It is an `ADDR_W`-bit address: bits
  [ADDR_W-1:0] of this field (Machine/Bus.lean, `blockBase`). -/
  crcBase        : BitVec 64
  /-- `FEATURE_WORD`, what the CPU-identification query returns. -/
  featureWord    : BitVec 32
  /-- `CPUID_AVAILABLE`, whether that query exists. -/
  cpuidAvailable : Bool
  /-- `MEM_ADMIT`, as the list of admitted regions. -/
  admitted       : List AdmitRegion
deriving DecidableEq, Repr

/-- `CRC_BASE` is OPEN (decision D4). -/
opaque Config.crcBase : BitVec 64

/-- `FEATURE_WORD` is OPEN per host (decision D27). -/
opaque Config.featureWord : BitVec 32

/-- `CPUID_AVAILABLE` is OPEN per host (decision D27). -/
opaque Config.cpuidAvailable : Bool

/-- `MEM_ADMIT` is OPEN, the platform's (decision D13). -/
opaque Config.admitRegions : List AdmitRegion

/-- The `RESULT` of a CALC whose buffer was written while it ran: any 32-bit value (20_memory.md R67; decision D19).
The argument is the count of free values taken before it. -/
opaque Config.freeWord : Nat → Word

/-- What the entries of `TABLE` hold at a reset, before the reset table build writes them: any 32-bit value (10_state.md
R29; decision D31). The first argument is the count of free values taken before the reset, the others slice and
index. -/
opaque Config.tableAtReset : Nat → BitVec 3 → BitVec 8 → Word

/-- `REM - n` where fewer than n bytes remain: the difference is no natural (00_scope.md R9). -/
opaque Config.remBelowZero : Nat → Nat → Nat

/-- The platform `State.reset` starts on: `ADDR_W` at the spec's own default of 64, every OPEN parameter left open. -/
def Config.platform : Platform :=
  { addrW := .w64
    crcBase := Config.crcBase
    featureWord := Config.featureWord
    cpuidAvailable := Config.cpuidAvailable
    admitted := Config.admitRegions }

end Sys2Proof
end

