-- ==== Sys2Proof/Machine/State.lean ====
section
/-! DEFINITION. The state of the block and of what stands outside it in a run: the interface registers (10_state.md
R23), `STATUS`' stored fields (R24), `TABLE` (R27), the hidden sequencer state (R50 to R54), the platform it runs on
(R21), buffer memory (R30), and the host side (bus events to come, values loads returned). Beside it the reasons a
step can stop, and the state after reset (R59). -/

namespace Sys2Proof.Machine

/-- `PHASE`, the sequencer's mode (10_state.md R52). -/
inductive Phase where
  /-- RESET_TGEN: the reset table build. -/
  | resetTgen
  /-- IDLE. -/
  | idle
  /-- TGEN: a TBLGEN command. -/
  | tgen
  /-- CALC_SW. -/
  | calcSw
  /-- CALC_HW. -/
  | calcHw
  /-- FAULTED. -/
  | faulted
deriving DecidableEq, Repr

/-- The outcome codes of 60_exceptions.md R220; codes 5 to 15 are never produced and have no name. -/
inductive ErrCode where
  | ok
  | invalidArgument
  | illegalCommand
  | hwPathUnsupported
  | memoryFault
deriving DecidableEq, Repr

/-- Where the sequencer stands in a CALC: the next micro-op is U_INIT (45_dispatch.md R207), or it is the one the
path's schedule picks (43_software_engine.md R150, 44_hardware_engine.md R180). -/
inductive CalcStage where
  | first
  | loop
deriving DecidableEq, Repr

/-- The registers of the block (10_state.md R23), and its reserved offsets: `reserved k` is offset 0x28 + 4 k. -/
inductive Reg where
  | cmd
  | status
  | init
  | result
  | addrLo
  | addrHi
  | lenLo
  | lenHi
  | faultAddrLo
  | faultAddrHi
  | reserved (k : Fin 6)
deriving DecidableEq, Repr

/-- What happens next outside the sequencer, in the one total order of 20_memory.md R78, and the sequencer's own turns
where the order must say them. -/
inductive BusEvent where
  /-- A 32-bit host store to a register (30_encoding.md R103, `W off value`). -/
  | store (r : Reg) (v : Word)
  /-- A 32-bit host load of a register (R103, `R off`). -/
  | load (r : Reg)
  /-- The host's loop of `crc.wait` (R104): it loads `STATUS`, and again until bit 0 is 0. -/
  | poll
  /-- A host access to the block that is not a 32-bit access at a 4-byte-aligned offset (10_state.md R58). -/
  | subword
  /-- An agent outside the block writes one byte of buffer memory (20_memory.md R67, R73). -/
  | memWrite (a : Nat) (b : Byte)
  /-- The sequencer takes a step before the next event (10_state.md R20). -/
  | engine
  /-- Reset (70_reset_and_hazards.md R250). -/
  | reset
deriving DecidableEq, Repr

/-- `TABLE`: 8 slices of 256 entries (10_state.md R27). -/
abbrev Table := Vector (Vector Word 256) 8

/-- Buffer memory: the bytes that differ from what an unlisted address reads as, addresses strictly rising
(Ops.lean: `Memory.wf`). -/
abbrev Memory := List Host.Cell

structure State where
  /-- The platform parameters, which no step changes (10_state.md R21). -/
  cfg         : Platform
  /-- `PHASE` (R52); `BUSY` and `FAULT` are functions of it (R52, R53). -/
  phase       : Phase
  /-- `TBL_READY`, `STATUS` [1] (R24). -/
  tblReady    : Bool
  /-- `ERR`, `STATUS` [7:4] (R24). -/
  err         : ErrCode
  /-- `INIT` (R23). -/
  init        : Word
  /-- `RESULT` (R23). -/
  result      : Word
  /-- `ADDR_LO` (R23). -/
  addrLo      : Word
  /-- `ADDR_HI` (R23). -/
  addrHi      : Word
  /-- `LEN_LO` (R23). -/
  lenLo       : Word
  /-- `LEN_HI` (R23). -/
  lenHi       : Word
  /-- `FAULT_ADDR_LO` (R23). -/
  faultAddrLo : Word
  /-- `FAULT_ADDR_HI` (R23). -/
  faultAddrHi : Word
  /-- `TABLE` (R27). -/
  table       : Table
  /-- `ACC` (R50). -/
  acc         : Word
  /-- `PTR` (R51); arithmetic on it is on naturals (00_scope.md R9), since it may reach 2^ADDR_W. -/
  ptr         : Nat
  /-- `REM` (R51). -/
  rem         : Nat
  /-- The initial value latched at acceptance (45_dispatch.md R207). -/
  initLatch   : Word
  /-- Whether U_INIT of the running CALC is still to come (45_dispatch.md R207). -/
  stage       : CalcStage
  /-- `TG_J` (R54). -/
  tgJ         : BitVec 3
  /-- `TG_I` (R54). -/
  tgI         : BitVec 8
  /-- Buffer memory (R30(b)), which the host owns. -/
  mem         : Memory
  /-- The host side: the events to come, in the order they take effect. -/
  bus         : List BusEvent
  /-- The host side: the values host loads returned, the first load first. -/
  loads       : List Word
  /-- The model's own: a byte of the running CALC's buffer was written since its acceptance (20_memory.md R67). -/
  raced       : Bool
  /-- The model's own: how many free values the run has taken; the first is `TABLE` at reset. -/
  freeCount   : Nat
deriving DecidableEq, Repr

/-- Why the machine stops with a fault. The block's own faults (60_exceptions.md R226) are no stop: they are next
states in phase `faulted`. -/
inductive Fault where
  /-- Raised by a step whose next event writes buffer memory at an address outside the 2^ADDR_W bytes of 10_state.md
  R30(b). Safe: no such byte exists. -/
  | noSuchAddress
  /-- Raised by U_TG_SLICE with slice 0, which 42_table_generator.md R133 excludes. Safe: the build never issues it. -/
  | sliceZero
deriving DecidableEq, Repr

/-- Why a step has no meaning. -/
inductive Refusal where
  /-- Raised by exec for an instruction without a meaning. Safe. -/
  | notModelled (mnemonic : String)
  /-- Raised by a step whose next event is a register access that is not an aligned 32-bit access: its behaviour is
  the open parameter `REG_SUBWORD`, and "a model refuses such an access" (10_state.md R58). Safe. -/
  | regSubword
deriving DecidableEq, Repr

/-- `TABLE` at a reset: every entry is a free value (10_state.md R29, R59), the `n`-th the run takes. -/
def unbuiltTable (n : Nat) : Table :=
  Vector.ofFn fun j => Vector.ofFn fun i => Config.tableAtReset n (BitVec.ofNat 3 j.val) (BitVec.ofNat 8 i.val)

/-- The state after reset on a platform (10_state.md R59). `ACC`, `PTR`, `REM`, the latched initial value and the CALC
stage have no reset value in the spec; the model's log names 0, 0, 0, 0 and `first` (DESIGN CHOICE). -/
def State.resetOn (p : Platform) : State :=
  { cfg := p
    phase := .resetTgen
    tblReady := false
    err := .ok
    init := 0#32
    result := 0#32
    addrLo := 0#32
    addrHi := 0#32
    lenLo := 0#32
    lenHi := 0#32
    faultAddrLo := 0#32
    faultAddrHi := 0#32
    table := unbuiltTable 0
    acc := 0#32
    ptr := 0
    rem := 0
    initLatch := 0#32
    stage := .first
    tgJ := 0#3
    tgI := 0#8
    mem := []
    bus := []
    loads := []
    raced := false
    freeCount := 1 }

/-- The machine right after reset, on the platform whose OPEN parameters are left open (00_scope.md R8). -/
def State.reset : State := State.resetOn Config.platform

end Sys2Proof.Machine
end

