-- ==== Sys2Proof/Machine/Crc.lean ====
section
/-! DEFINITION. The arithmetic of the checksum: the division step `Div8` (42_table_generator.md R131), the fold and
`Crc32c` of 45_dispatch.md R210, the value a built table entry has (R135), and the two table steps of the software
path (43_software_engine.md R153, R154) and the folds of the hardware path (44_hardware_engine.md R181 to R184) as
functions of the accumulator and the bytes read. -/

namespace Sys2Proof.Machine

/-- `POLY`, the reflected Castagnoli polynomial (00_scope.md R2). -/
def poly : Word := 0x82F63B78#32

/-- `NOT32` (00_scope.md R9). -/
def not32 (a : Word) : Word := a ^^^ 0xFFFFFFFF#32

/-- One of the 8 iterations of R131. -/
def divStep (c : Word) : Word := if c.getLsbD 0 then (c >>> 1) ^^^ poly else c >>> 1

/-- `Div8` (R131). -/
def div8 (c : Word) : Word := divStep^[8] c

/-- Fold one byte: `Div8(a XOR zext_32(b))`. -/
def foldByte (a : Word) (b : Byte) : Word := div8 (a ^^^ b.setWidth 32)

/-- `Fold` (R210). -/
def fold (a : Word) : List Byte → Word
  | [] => a
  | b :: bs => fold (foldByte a b) bs

/-- `Crc32c` (R210). -/
def crc32c (c : Word) (bs : List Byte) : Word :=
  match bs with
  | [] => c
  | _ :: _ => fold (c ^^^ 0xFFFFFFFF#32) bs ^^^ 0xFFFFFFFF#32

/-- What a completed build leaves in `TABLE[j][i]`: `Div8` applied j + 1 times to i (R135). -/
def tableValue (j : BitVec 3) (i : BitVec 8) : Word := div8^[j.toNat + 1] (i.setWidth 32)

/-- `TABLE[j][i]`. -/
def Table.get (t : Table) (j : BitVec 3) (i : BitVec 8) : Word :=
  (t[j.toNat]'j.isLt)[i.toNat]'i.isLt

/-- `TABLE[j][i] <- v`. -/
def Table.set (t : Table) (j : BitVec 3) (i : BitVec 8) (v : Word) : Table :=
  Vector.set t j.toNat (Vector.set (t[j.toNat]'j.isLt) i.toNat v i.isLt) j.isLt

/-- The table a completed build leaves (R135). -/
def Table.built : Table :=
  Vector.ofFn fun j => Vector.ofFn fun i => tableValue (BitVec.ofNat 3 j.val) (BitVec.ofNat 8 i.val)

/-- The entry U_TG_SLICE computes for slice j from `p`, the entry of slice j - 1 (R133). -/
def sliceEntry (t : Table) (p : Word) : Word := t.get 0#3 (p.extractLsb' 0 8) ^^^ (p >>> 8)

/-- The accumulator after U_SW_BYTE (43_software_engine.md R153). -/
def swByte (t : Table) (acc : Word) (b : Byte) : Word :=
  t.get 0#3 ((acc ^^^ b.setWidth 32).extractLsb' 0 8) ^^^ (acc >>> 8)

/-- The eight lookups of U_SW_SLICE8 on the word already combined with the accumulator (R154): byte 0 goes to slice 7
and byte 7 to slice 0. -/
def slice8Lookups (t : Table) (x : BitVec 64) : Word :=
  t.get 7#3 (x.extractLsb' 0 8) ^^^ t.get 6#3 (x.extractLsb' 8 8) ^^^
  t.get 5#3 (x.extractLsb' 16 8) ^^^ t.get 4#3 (x.extractLsb' 24 8) ^^^
  t.get 3#3 (x.extractLsb' 32 8) ^^^ t.get 2#3 (x.extractLsb' 40 8) ^^^
  t.get 1#3 (x.extractLsb' 48 8) ^^^ t.get 0#3 (x.extractLsb' 56 8)

/-- The accumulator after U_SW_SLICE8 (R154): `ACC` meets only the low half of the word. -/
def swSlice8 (t : Table) (acc : Word) (w : BitVec 64) : Word := slice8Lookups t (w ^^^ acc.setWidth 64)

/-- The first `n` bytes of a value, `v[8k+7:8k]` for k = 0 .. n-1 in that order. -/
def valueBytes {m : Nat} (n : Nat) (v : BitVec m) : List Byte :=
  (List.range n).map fun k => v.extractLsb' (8 * k) 8

/-- The accumulator after a hardware fold of `n` bytes: the byte at the lowest address first
(44_hardware_engine.md R181 to R184). -/
def hwFold {m : Nat} (n : Nat) (acc : Word) (v : BitVec m) : Word := fold acc (valueBytes n v)

end Sys2Proof.Machine
end

