-- ==== Sys2Proof/Machine/Flags.lean ====
section
/-! DEFINITION. The status bits (10_state.md R24): `BUSY` and `FAULT` as functions of `PHASE` (R52, R53), the outcome
codes (60_exceptions.md R220), the `STATUS` word, and `HW_PRESENT` (41_feature_detector.md R121). -/

namespace Sys2Proof.Machine

/-- `STATUS.BUSY` is 1 exactly in these four phases (R52). -/
def Phase.busy : Phase → Bool
  | .resetTgen | .tgen | .calcSw | .calcHw => true
  | .idle | .faulted => false

/-- `STATUS.FAULT` is 1 exactly in phase FAULTED (R52). -/
def Phase.fault : Phase → Bool
  | .faulted => true
  | .resetTgen | .idle | .tgen | .calcSw | .calcHw => false

/-- A CALC is running (20_memory.md R60). -/
def Phase.inCalc : Phase → Bool
  | .calcSw | .calcHw => true
  | .resetTgen | .idle | .tgen | .faulted => false

/-- The numbers of the outcome codes (60_exceptions.md R220). -/
def ErrCode.toBits : ErrCode → BitVec 4
  | .ok => 0#4
  | .invalidArgument => 1#4
  | .illegalCommand => 2#4
  | .hwPathUnsupported => 3#4
  | .memoryFault => 4#4

/-- The codes whose class is "fault" (60_exceptions.md R220). -/
def ErrCode.isFault : ErrCode → Bool
  | .hwPathUnsupported | .memoryFault => true
  | .ok | .invalidArgument | .illegalCommand => false

/-- The `STATUS` word: [31:8] = 0, `ERR` [7:4], [3] = 0, `FAULT` [2], `TBL_READY` [1], `BUSY` [0] (R24). -/
def State.statusWord (s : State) : Word :=
  0#24 ++ s.err.toBits ++ 0#1 ++ BitVec.ofBool s.phase.fault ++ BitVec.ofBool s.tblReady ++ BitVec.ofBool s.phase.busy

/-- `HW_PRESENT` is `CPUID_AVAILABLE and FEATURE_WORD[20] = 1` (41_feature_detector.md R121). -/
def hwPresent (p : Platform) : Bool := p.cpuidAvailable && p.featureWord.getLsbD 20

end Sys2Proof.Machine
end

