-- ==== Sys2Proof/Machine/Ops.lean ====
section
/-! DEFINITION. The shared operations: buffer memory and its reads (20_memory.md R61, R69), completion
(45_dispatch.md R209), fault entry (60_exceptions.md R226), reset (70_reset_and_hazards.md R250), and the end and the
counters of a table build (42_table_generator.md R134, R136). The block has no return from a fault: only reset leaves
`faulted` (60_exceptions.md R227, R229). -/

namespace Sys2Proof.Machine

/-! ## Buffer memory -/

/-- What an address reads as that no agent has written. -/
def unwritten : Byte := 0#8

/-- The byte at an address. -/
def Memory.read : Memory → Nat → Byte
  | [], _ => unwritten
  | (k, v) :: m, a => if a = k then v else if a < k then unwritten else Memory.read m a

/-- A cell in front of a memory, left out where the byte is what an unlisted address reads as. -/
def Memory.cons (a : Nat) (b : Byte) (m : Memory) : Memory := if b = unwritten then m else (a, b) :: m

/-- Store one byte, keeping the canonical form. -/
def Memory.write : Memory → Nat → Byte → Memory
  | [], a, b => Memory.cons a b []
  | (k, v) :: m, a, b =>
    if a = k then Memory.cons a b m
    else if a < k then Memory.cons a b ((k, v) :: m)
    else (k, v) :: Memory.write m a b

/-- The canonical form above an address bound: addresses strictly rising, no byte that an unlisted address reads as. -/
def Memory.wfFrom : Nat → Memory → Bool
  | _, [] => true
  | lo, (k, v) :: m => decide (lo ≤ k) && decide (v ≠ unwritten) && Memory.wfFrom (k + 1) m

/-- The canonical form of buffer memory. -/
def Memory.wf (m : Memory) : Bool := Memory.wfFrom 0 m

/-- `MemRead(a, n)` (R61): bits `[8k+7:8k]` are the byte at `a + k`. -/
def memRead (m : Memory) : Nat → (n : Nat) → BitVec (8 * n)
  | _, 0 => 0#0
  | a, n + 1 => memRead m (a + 1) n ++ m.read a

/-- The bytes at `a`, `a + 1`, ..., `a + n - 1`. -/
def bytesAt (m : Memory) : Nat → Nat → List Byte
  | _, 0 => []
  | a, n + 1 => m.read a :: bytesAt m (a + 1) n

/-- Whether a region admits a read. -/
def regionAdmits (r : AdmitRegion) (a : Nat) (w : ReadWidth) : Bool :=
  decide (r.base ≤ a) && decide (a + w.bytes ≤ r.base + r.size) && r.widths.contains w

/-- `MEM_ADMIT(a, n)` (00_scope.md R8): some region admits the read. -/
def memAdmit (p : Platform) (a : Nat) (w : ReadWidth) : Bool := p.admitted.any fun r => regionAdmits r a w

/-! ## Acceptance, completion, fault entry, reset -/

/-- The first line of acceptance: `ERR <- 0` (45_dispatch.md R200). -/
def accept (s : State) : State := { s with err := .ok }

/-- `complete(code)` (45_dispatch.md R209). -/
def complete (c : ErrCode) (s : State) : State := { s with err := c, phase := .idle }

/-- An illegal command word: `ERR <- 0` at acceptance, then the error ILLEGAL_COMMAND (45_dispatch.md R200, R201). -/
def illegalCommand (s : State) : State := complete .illegalCommand (accept s)

/-- `FAULT_ADDR <- zext_64(PTR)`. -/
def recordFaultAddr (s : State) : State :=
  { s with
    faultAddrLo := (BitVec.ofNat 64 s.ptr).extractLsb' 0 32
    faultAddrHi := (BitVec.ofNat 64 s.ptr).extractLsb' 32 32 }

/-- Fault entry (60_exceptions.md R226): `ERR <- c`, `PHASE <- FAULTED`, and `FAULT_ADDR` for MEMORY_FAULT only. -/
def raiseFault (c : ErrCode) (s : State) : State :=
  if c = .memoryFault then recordFaultAddr { s with err := c, phase := .faulted }
  else { s with err := c, phase := .faulted }

/-- Reset of the block (70_reset_and_hazards.md R250; 10_state.md R59). The platform, buffer memory and the host side
are not the block's and keep their values. -/
def blockReset (s : State) : State :=
  { State.resetOn s.cfg with
    table := unbuiltTable s.freeCount
    mem := s.mem
    bus := s.bus
    loads := s.loads
    freeCount := s.freeCount + 1 }

/-- The next free value, for a `RESULT` the spec calls unspecified (20_memory.md R67). -/
def freeResult (s : State) : State :=
  { s with result := Config.freeWord s.freeCount, freeCount := s.freeCount + 1 }

/-! ## The table build's counters -/

/-- The start of a build: slice 0, index 0 (42_table_generator.md R136). -/
def startBuild (s : State) : State := { s with phase := .tgen, tgJ := 0#3, tgI := 0#8 }

/-- The end of a build (42_table_generator.md R134). -/
def endBuild (s : State) : State := complete .ok { s with tblReady := true }

/-- The counters after the micro-op for slice `j`, index `i`, in the order of 42_table_generator.md R136. -/
def advanceBuild (j : BitVec 3) (i : BitVec 8) (s : State) : State :=
  if i = 255#8 then
    if j = 7#3 then endBuild s else { s with tgJ := j + 1#3, tgI := 0#8 }
  else { s with tgI := i + 1#8 }

end Sys2Proof.Machine
end

