-- ==== Sys2Proof/Machine/Operands.lean ====
section
/-! DEFINITION. The operands of the commands and micro-ops: `ADDR`, `LEN` and `initial` (30_encoding.md R96), the
argument checks (45_dispatch.md R202, R204), the buffer read of a micro-op with its admission
(60_exceptions.md R224), and the two schedules (43_software_engine.md R151, 44_hardware_engine.md R185). -/

namespace Sys2Proof.Machine

/-- 2^ADDR_W. -/
def addrSpace (p : Platform) : Nat := 2 ^ p.addrW.bits

/-- `ADDR`: `{ADDR_HI, ADDR_LO}[ADDR_W-1:0]` (R96). -/
def State.addr (s : State) : Nat := (s.addrHi ++ s.addrLo).toNat % addrSpace s.cfg

/-- `LEN`: `{LEN_HI, LEN_LO}[ADDR_W-1:0]` (R96). -/
def State.len (s : State) : Nat := (s.lenHi ++ s.lenLo).toNat % addrSpace s.cfg

/-- The initial value: 0 when the initial CRC is omitted, else `INIT` (R96; R200). -/
def initialOf (k : InitKind) (s : State) : Word :=
  match k with
  | .default => 0#32
  | .u32 | .notU32 => s.init

/-- The five argument conditions of 45_dispatch.md R202. -/
def badArguments (f : FlagKind) (d : DataKind) (k : InitKind) : Bool :=
  f == .notBool || f == .absent || d == .absent || d == .other || k == .notU32

/-- The buffer would wrap around the top of the address space: `ADDR + LEN > 2^ADDR_W` (45_dispatch.md R204). -/
def bufferWraps (s : State) : Bool := decide (addrSpace s.cfg < s.addr + s.len)

/-- `REM - n` on naturals (00_scope.md R9). No schedule runs a micro-op with fewer than n bytes left, and the spec gives
the difference no value there: it is a free one. -/
def remAfter (rem n : Nat) : Nat := if n ≤ rem then rem - n else Config.remBelowZero rem n

/-- `ACC <- acc ; PTR <- PTR + n ; REM <- REM - n`. -/
def consume (w : ReadWidth) (acc : Word) (s : State) : State :=
  { s with acc := acc, ptr := s.ptr + w.bytes, rem := remAfter s.rem w.bytes }

/-- A buffer micro-op of a width: the read at `PTR` is admitted and `acc` is the accumulator it gives, or it raises
MEMORY_FAULT (60_exceptions.md R224). Whether `PTR` is aligned makes no difference (20_memory.md R65: no alignment error
exists). -/
def bufferMicroOp (w : ReadWidth) (acc : Word) (s : State) : State :=
  if memAdmit s.cfg s.ptr w then consume w acc s else raiseFault .memoryFault s

/-- `SwNext` (43_software_engine.md R151). -/
def swNext (ptr rem : Nat) : Instr :=
  if rem = 0 then .uFinal else if ptr % 8 ≠ 0 ∨ rem < 8 then .uSwByte else .uSwSlice8

/-- `HwWidth` (44_hardware_engine.md R185): the largest chunk that fits in what remains and is aligned at `PTR`. -/
def hwWidth (ptr rem : Nat) : ReadWidth :=
  if 8 ≤ rem ∧ ptr % 8 = 0 then .eight
  else if 4 ≤ rem ∧ ptr % 4 = 0 then .four
  else if 2 ≤ rem ∧ ptr % 2 = 0 then .two
  else .one

/-- The fold of a width. -/
def hwFoldOf : ReadWidth → Instr
  | .one => .uHwFold1
  | .two => .uHwFold2
  | .four => .uHwFold4
  | .eight => .uHwFold8

/-- The hardware path's loop (44_hardware_engine.md R180). -/
def hwNext (ptr rem : Nat) : Instr := if rem = 0 then .uFinal else hwFoldOf (hwWidth ptr rem)

end Sys2Proof.Machine
end

