-- ==== Sys2Proof/Machine/Feature.lean ====
section
/-! DEFINITION. The Feature unit: FEATQ (41_feature_detector.md). -/

namespace Sys2Proof.Machine

/-- FEATQ (R120): `RESULT <- zext_32(HW_PRESENT)`, completed in the acceptance step. -/
def execFeatq (s : State) : Host.Outcome State Fault Refusal :=
  .next (complete .ok { accept s with result := (BitVec.ofBool (hwPresent s.cfg)).setWidth 32 })

end Sys2Proof.Machine
end

