-- ==== Sys2Proof/Machine/Calc.lean ====
section
/-! DEFINITION. What the two CALC commands share: acceptance with its checks in order (45_dispatch.md R200 to R207),
and the two micro-ops of every CALC, U_INIT and U_FINAL (43_software_engine.md R152, R155). -/

namespace Sys2Proof.Machine

/-- Start (45_dispatch.md R207): latch the initial value, point at the buffer, enter the path's phase. The next
micro-op is U_INIT, and no byte of the buffer has been written since. -/
def startCalc (useHw : Bool) (initial : Word) (s : State) : State :=
  { s with
    initLatch := initial
    ptr := s.addr
    rem := s.len
    phase := if useHw then .calcHw else .calcSw
    stage := .first
    raced := false }

/-- Acceptance of a CALC: the checks of R202, R204 and R205, the zero-length case of R206 and the start of R207, in
the order of R200 and 60_exceptions.md R228. -/
def acceptCalc (useHw : Bool) (f : FlagKind) (d : DataKind) (k : InitKind) (s : State) : State :=
  if badArguments f d k then complete .invalidArgument (accept s)
  else if bufferWraps s then complete .invalidArgument (accept s)
  else if useHw && !hwPresent s.cfg then raiseFault .hwPathUnsupported (accept s)
  else if s.len = 0 then complete .ok { accept s with result := initialOf k s }
  else startCalc useHw (initialOf k s) (accept s)

/-- U_INIT (R152). -/
def execUInit (s : State) : Host.Outcome State Fault Refusal := .next { s with acc := s.initLatch ^^^ 0xFFFFFFFF#32 }

/-- U_FINAL (R155). If a byte of the buffer was written during the CALC, `RESULT` is any 32-bit value and the command
completes all the same (20_memory.md R67). -/
def execUFinal (s : State) : Host.Outcome State Fault Refusal :=
  .next (complete .ok (if s.raced then freeResult s else { s with result := s.acc ^^^ 0xFFFFFFFF#32 }))

end Sys2Proof.Machine
end

