-- ==== Sys2Proof/Machine/HardwarePath.lean ====
section
/-! DEFINITION. The hardware fold path: CALC.HW and its folds (44_hardware_engine.md). It never reads `TABLE`
(10_state.md R27). -/

namespace Sys2Proof.Machine

/-- CALC.HW at acceptance (R180; `USE_HW` = 1). -/
def execCalcHw (f : FlagKind) (d : DataKind) (k : InitKind) (s : State) : Host.Outcome State Fault Refusal :=
  .next (acceptCalc true f d k s)

/-- U_HW_FOLD1 (R181). -/
def execUHwFold1 (s : State) : Host.Outcome State Fault Refusal :=
  .next (bufferMicroOp .one (hwFold 1 s.acc (memRead s.mem s.ptr 1)) s)

/-- U_HW_FOLD2 (R182). -/
def execUHwFold2 (s : State) : Host.Outcome State Fault Refusal :=
  .next (bufferMicroOp .two (hwFold 2 s.acc (memRead s.mem s.ptr 2)) s)

/-- U_HW_FOLD4 (R183). -/
def execUHwFold4 (s : State) : Host.Outcome State Fault Refusal :=
  .next (bufferMicroOp .four (hwFold 4 s.acc (memRead s.mem s.ptr 4)) s)

/-- U_HW_FOLD8 (R184). -/
def execUHwFold8 (s : State) : Host.Outcome State Fault Refusal :=
  .next (bufferMicroOp .eight (hwFold 8 s.acc (memRead s.mem s.ptr 8)) s)

end Sys2Proof.Machine
end

