-- ==== Sys2Proof/Machine/SoftwarePath.lean ====
section
/-! DEFINITION. The software table path: CALC.SW and its buffer micro-ops (43_software_engine.md). -/

namespace Sys2Proof.Machine

/-- CALC.SW at acceptance (R150; `USE_HW` = 0). -/
def execCalcSw (f : FlagKind) (d : DataKind) (k : InitKind) (s : State) : Host.Outcome State Fault Refusal :=
  .next (acceptCalc false f d k s)

/-- U_SW_BYTE (R153). -/
def execUSwByte (s : State) : Host.Outcome State Fault Refusal :=
  .next (bufferMicroOp .one (swByte s.table s.acc (memRead s.mem s.ptr 1)) s)

/-- U_SW_SLICE8 (R154). -/
def execUSwSlice8 (s : State) : Host.Outcome State Fault Refusal :=
  .next (bufferMicroOp .eight (swSlice8 s.table s.acc (memRead s.mem s.ptr 8)) s)

end Sys2Proof.Machine
end

