-- ==== Sys2Proof/Machine/TableGen.lean ====
section
/-! DEFINITION. The Table generator: TBLGEN and the two table micro-ops (42_table_generator.md). The counters between
the micro-ops, and the end of a build, are the sequencer's (Sequencer.lean). -/

namespace Sys2Proof.Machine

/-- TBLGEN at acceptance (R136, R200). -/
def execTblgen (s : State) : Host.Outcome State Fault Refusal := .next (startBuild (accept s))

/-- U_TG_BASE (R132). -/
def execUTgBase (i : BitVec 8) (s : State) : Host.Outcome State Fault Refusal :=
  .next { s with table := s.table.set 0#3 i (div8 (i.setWidth 32)) }

/-- U_TG_SLICE (R133); slice 0 is no operand of it. -/
def execUTgSlice (j : BitVec 3) (i : BitVec 8) (s : State) : Host.Outcome State Fault Refusal :=
  if j = 0#3 then .fault .sliceZero
  else .next { s with table := s.table.set j i (sliceEntry s.table (s.table.get (j - 1#3) i)) }

end Sys2Proof.Machine
end

