-- ==== Sys2Proof/Machine/Dispatch.lean ====
section
/-! DEFINITION. One arm per instruction, each a direct call of its meaning. -/

namespace Sys2Proof.Machine

def exec (i : Instr) (s : State) : Host.Outcome State Fault Refusal :=
  match i with
  | .featq => Sys2Proof.Machine.execFeatq s
  | .tblgen => Sys2Proof.Machine.execTblgen s
  | .calcSw f d k => Sys2Proof.Machine.execCalcSw f d k s
  | .calcHw f d k => Sys2Proof.Machine.execCalcHw f d k s
  | .uTgBase x => Sys2Proof.Machine.execUTgBase x s
  | .uTgSlice j x => Sys2Proof.Machine.execUTgSlice j x s
  | .uInit => Sys2Proof.Machine.execUInit s
  | .uSwByte => Sys2Proof.Machine.execUSwByte s
  | .uSwSlice8 => Sys2Proof.Machine.execUSwSlice8 s
  | .uHwFold1 => Sys2Proof.Machine.execUHwFold1 s
  | .uHwFold2 => Sys2Proof.Machine.execUHwFold2 s
  | .uHwFold4 => Sys2Proof.Machine.execUHwFold4 s
  | .uHwFold8 => Sys2Proof.Machine.execUHwFold8 s
  | .uFinal => Sys2Proof.Machine.execUFinal s

end Sys2Proof.Machine
end

