-- ==== Sys2Proof/Machine/Bus.lean ====
section
/-! DEFINITION. The host interface: the register map (10_state.md R23), loads (R56) and stores that take effect
(R57(c)), writes to buffer memory by agents outside the block (20_memory.md R67), and the address map that turns a
host access into an event of the block (20_memory.md R70, 10_state.md R58). -/

namespace Sys2Proof.Machine

/-- The offset of a register in the block (R23). -/
def Reg.offset : Reg → Nat
  | .cmd => 0x00
  | .status => 0x04
  | .init => 0x08
  | .result => 0x0C
  | .addrLo => 0x10
  | .addrHi => 0x14
  | .lenLo => 0x18
  | .lenHi => 0x1C
  | .faultAddrLo => 0x20
  | .faultAddrHi => 0x24
  | .reserved k => 0x28 + 4 * k.val

/-- The registers and reserved offsets of the block in the order of their offsets, one every 4 bytes (R23). -/
def blockRegs : List Reg :=
  [.cmd, .status, .init, .result, .addrLo, .addrHi, .lenLo, .lenHi, .faultAddrLo, .faultAddrHi,
   .reserved 0, .reserved 1, .reserved 2, .reserved 3, .reserved 4, .reserved 5]

/-- A register of the upper half of an address or a length: it reads 0 when ADDR_W = 32 (R23). -/
def highHalf (p : Platform) (v : Word) : Word :=
  match p.addrW with
  | .w32 => 0#32
  | .w64 => v

/-- What a host load of a register returns (R23, R56). -/
def readReg (r : Reg) (s : State) : Word :=
  match r with
  | .cmd => 0#32
  | .status => s.statusWord
  | .init => s.init
  | .result => s.result
  | .addrLo => s.addrLo
  | .addrHi => highHalf s.cfg s.addrHi
  | .lenLo => s.lenLo
  | .lenHi => highHalf s.cfg s.lenHi
  | .faultAddrLo => s.faultAddrLo
  | .faultAddrHi => highHalf s.cfg s.faultAddrHi
  | .reserved _ => 0#32

/-- A store to ADDR_HI; ignored when ADDR_W = 32 (R23). -/
def writeAddrHi (v : Word) (s : State) : State :=
  match s.cfg.addrW with
  | .w32 => s
  | .w64 => { s with addrHi := v }

/-- A store to LEN_HI; ignored when ADDR_W = 32 (R23). -/
def writeLenHi (v : Word) (s : State) : State :=
  match s.cfg.addrW with
  | .w32 => s
  | .w64 => { s with lenHi := v }

/-- A host store, taking effect, to a register other than `CMD`: the read-write registers take the value, a store to a
read-only or reserved offset is ignored (R57(c)). A store to `CMD` is a command issue, which the sequencer handles. -/
def writeReg (r : Reg) (v : Word) (s : State) : State :=
  match r with
  | .init => { s with init := v }
  | .addrLo => { s with addrLo := v }
  | .addrHi => writeAddrHi v s
  | .lenLo => { s with lenLo := v }
  | .lenHi => writeLenHi v s
  | .cmd | .status | .result | .faultAddrLo | .faultAddrHi | .reserved _ => s

/-- A host load: the value goes to the host, the block is unchanged (R56). -/
def hostLoad (r : Reg) (s : State) : State := { s with loads := s.loads ++ [readReg r s] }

/-- One turn of the loop of `crc.wait` (30_encoding.md R104): the host loads `STATUS`, and while bit 0 is 1 it loads it
again. Between two loads of the loop the sequencer takes exactly one step (DESIGN CHOICE, notes/assumptions/16.md: R104
gives no number). -/
def hostPoll (s : State) : State :=
  if (readReg .status s).getLsbD 0 then { hostLoad .status s with bus := .engine :: .poll :: s.bus }
  else hostLoad .status s

/-- Whether an address lies in the buffer `[ADDR, ADDR + LEN)`. -/
def inBuffer (s : State) (a : Nat) : Bool := decide (s.addr ≤ a) && decide (a < s.addr + s.len)

/-- An agent outside the block writes one byte of buffer memory. During a CALC, a write into its buffer leaves the
`RESULT` to come unspecified (20_memory.md R67). -/
def hostMemWrite (a : Nat) (b : Byte) (s : State) : State :=
  { s with mem := s.mem.write a b, raced := s.raced || (s.phase.inCalc && inBuffer s a) }

/-! ## The address map -/

/-- Where a host access lands. -/
inductive Target where
  /-- An aligned 32-bit access to this register. -/
  | reg (r : Reg)
  /-- An access that touches the block in any other way (R58). -/
  | malformed
  /-- An access that does not touch the block. -/
  | outside
deriving DecidableEq, Repr

/-- `CRC_BASE` as a number: an `ADDR_W`-bit address (00_scope.md R8). -/
def blockBase (p : Platform) : Nat := p.crcBase.toNat % addrSpace p

/-- The address after the block's last byte. The spec does not say that addresses wrap: of a block placed so high that
its 0x40 bytes run past the top of the address space, only the bytes below the top exist (DESIGN CHOICE,
notes/assumptions/1.md). -/
def blockEnd (p : Platform) : Nat := min (blockBase p + 0x40) (addrSpace p)

/-- The address map: the block is the 0x40 bytes at `CRC_BASE` (20_memory.md R70). -/
def route (p : Platform) (a : Nat) (w : ReadWidth) : Target :=
  if a + w.bytes ≤ blockBase p ∨ blockEnd p ≤ a then .outside
  else if w = .four ∧ blockBase p ≤ a ∧ a + w.bytes ≤ blockEnd p ∧ (a - blockBase p) % 4 = 0 then
    .reg (blockRegs.getD ((a - blockBase p) / 4) (.reserved 5))
  else .malformed

/-- An event after those already waiting. -/
def State.enqueue (e : BusEvent) (s : State) : State := { s with bus := s.bus ++ [e] }

/-- A host store of `v` at a host address: the block sees it if it touches the block. -/
def State.hostStoreAt (a : Nat) (w : ReadWidth) (v : Word) (s : State) : State :=
  match route s.cfg a w with
  | .reg r => s.enqueue (.store r v)
  | .malformed => s.enqueue .subword
  | .outside => s

/-- A host load at a host address. -/
def State.hostLoadAt (a : Nat) (w : ReadWidth) (s : State) : State :=
  match route s.cfg a w with
  | .reg r => s.enqueue (.load r)
  | .malformed => s.enqueue .subword
  | .outside => s

end Sys2Proof.Machine
end

