-- ==== Sys2Proof/Machine/HostProgram.lean ====
section
/-! DEFINITION. Host programs as bus events (30_encoding.md R103) and the pseudo-instructions of R104. The mnemonics of
R102 are the encoder's (`encodeCalc` of Decode.lean gives the word of `crc.calc.sw` and `crc.calc.hw`). -/

namespace Sys2Proof.Machine

/-- The register or reserved offset at an offset of the block (10_state.md R23). -/
def regAt (off : Nat) : Option Reg := if off % 4 = 0 then blockRegs[off / 4]? else none

/-- `W off value` (R103): a 32-bit store to `CRC_BASE + off`. -/
def busW (off : Nat) (v : Word) : BusEvent :=
  match regAt off with
  | some r => .store r v
  | none => .subword

/-- `R off` (R103): a 32-bit load of `CRC_BASE + off`. -/
def busR (off : Nat) : BusEvent :=
  match regAt off with
  | some r => .load r
  | none => .subword

/-- `crc.setbuf a, n`. -/
def crcSetbuf (a n : BitVec 64) : List BusEvent :=
  [busW 0x10 (a.extractLsb' 0 32), busW 0x14 (a.extractLsb' 32 32), busW 0x18 (n.extractLsb' 0 32),
   busW 0x1C (n.extractLsb' 32 32)]

/-- `crc.wait`: the loop that loads `STATUS` until bit 0 is 0. -/
def crcWait : List BusEvent := [.poll]

/-- `crc.calculate h, a, n, c`. -/
def crcCalculate (h : Bool) (a n : BitVec 64) (c : Word) : List BusEvent :=
  crcSetbuf a n ++ [busW 0x08 c, busW 0x00 (if h then 0x00000413#32 else 0x00000403#32)] ++ crcWait ++
    [busR 0x04, busR 0x0C]

/-- `crc.available`. -/
def crcAvailable : List BusEvent := [busW 0x00 0x00000001#32, busR 0x0C]

end Sys2Proof.Machine
end

