-- ==== Sys2Proof/Machine/Sequencer.lean ====
section
/-! DEFINITION. Who takes the next step and what it is (10_state.md R20): the sequencer's next micro-op from `PHASE`
and the schedules (42_table_generator.md R136, 43_software_engine.md R150, 44_hardware_engine.md R180), how the
sequencer moves on after one, and what becomes of the next bus event (10_state.md R56, R57, R58). Step.lean only runs
what `turn` picks. -/

namespace Sys2Proof.Machine

/-- The table micro-op at the counters: slice 0 is U_TG_BASE's, slices 1 to 7 are U_TG_SLICE's (R136). -/
def buildNext (s : State) : Instr := if s.tgJ = 0#3 then .uTgBase s.tgI else .uTgSlice s.tgJ s.tgI

/-- A CALC's next micro-op: U_INIT first, then what the path's schedule picks. -/
def calcNext (pick : Nat → Nat → Instr) (s : State) : Instr :=
  match s.stage with
  | .first => .uInit
  | .loop => pick s.ptr s.rem

/-- The sequencer's next micro-op, if a command or the reset build is running. -/
def nextUop (s : State) : Option Instr :=
  match s.phase with
  | .resetTgen | .tgen => some (buildNext s)
  | .calcSw => some (calcNext swNext s)
  | .calcHw => some (calcNext hwNext s)
  | .idle | .faulted => none

/-- How the sequencer moves on after an instruction: the build's counters and its end (R134, R136), and the loop that
follows U_INIT. -/
def advance (i : Instr) (s : State) : State :=
  match i with
  | .uTgBase x => advanceBuild 0#3 x s
  | .uTgSlice j x => advanceBuild j x s
  | .uInit => { s with stage := .loop }
  | .featq | .tblgen | .calcSw _ _ _ | .calcHw _ _ _ | .uSwByte | .uSwSlice8 | .uHwFold1 | .uHwFold2 | .uHwFold4
  | .uHwFold8 | .uFinal => s

/-- What the next step is. -/
inductive Turn where
  /-- Run this instruction on this state. -/
  | run (i : Instr) (s : State)
  /-- No instruction runs; this is the next state. -/
  | quiet (s : State)
  /-- The step stops with a fault. -/
  | fault (r : Fault)
  /-- The step is refused. -/
  | refuse (r : Refusal)
deriving DecidableEq, Repr

/-- The sequencer's turn: its next micro-op, or nothing (70_reset_and_hazards.md R252, 60_exceptions.md R227). -/
def engineTurn (s : State) : Turn :=
  match nextUop s with
  | some i => .run i s
  | none => .quiet s

/-- A command issue (45_dispatch.md R200): decode the word and run it, or complete with ILLEGAL_COMMAND. -/
def commandTurn (w : Word) (s : State) : Turn :=
  match decodeCommand w with
  | .ok i => .run i s
  | .error _ => .quiet (illegalCommand s)

/-- A store that takes effect (10_state.md R57(c)). -/
def storeTurn (r : Reg) (v : Word) (s : State) : Turn :=
  match r with
  | .cmd => commandTurn v s
  | .status | .init | .result | .addrLo | .addrHi | .lenLo | .lenHi | .faultAddrLo | .faultAddrHi | .reserved _ =>
    .quiet (writeReg r v s)

/-- The next step: the first bus event, or the sequencer's turn where there is none, or where the event is a store that
is held while `BUSY` (R57(b)). -/
def turn (s : State) : Turn :=
  match s.bus with
  | [] => engineTurn s
  | .engine :: rest => engineTurn { s with bus := rest }
  | .reset :: rest => .quiet (blockReset { s with bus := rest })
  | .load r :: rest => .quiet (hostLoad r { s with bus := rest })
  | .poll :: rest => .quiet (hostPoll { s with bus := rest })
  | .memWrite a b :: rest =>
    if a < addrSpace s.cfg then .quiet (hostMemWrite a b { s with bus := rest }) else .fault .noSuchAddress
  | .subword :: _ => .refuse .regSubword
  | .store r v :: rest =>
    if s.phase.fault then .quiet { s with bus := rest }
    else if s.phase.busy then engineTurn s
    else storeTurn r v { s with bus := rest }

/-- The outcome of running an instruction, the sequencer having moved on. -/
def finish (i : Instr) (o : Host.Outcome State Fault Refusal) : Host.Outcome State Fault Refusal :=
  match o with
  | .next t => .next (advance i t)
  | .fault r => .fault r
  | .refused r => .refused r

/-! ## Placing an instruction where the next step runs it -/

/-- The reset build has run (70_reset_and_hazards.md R251), if it had not. -/
def withTable (s : State) : State := if s.tblReady then s else { s with tblReady := true, table := Table.built }

/-- A command word waiting at `CMD` of an idle block. -/
def withCommand (w : Word) (s : State) : State :=
  { withTable s with phase := .idle, bus := .store .cmd w :: s.bus }

/-- A build standing at slice `j`, index `i`. -/
def withBuildAt (j : BitVec 3) (i : BitVec 8) (s : State) : State :=
  { s with phase := if s.tblReady then .tgen else .resetTgen, tgJ := j, tgI := i, bus := .engine :: s.bus }

/-- A CALC of a path standing at a stage, with `rem` bytes left and `PTR` brought down to a multiple of `align`. -/
def withCalcAt (ph : Phase) (st : CalcStage) (align rem : Nat) (s : State) : State :=
  { withTable s with
    phase := ph
    stage := st
    ptr := s.ptr - s.ptr % align
    rem := rem
    bus := .engine :: s.bus }

/-- The sequencer standing where its next micro-op is the given one. -/
def withMicroOp (i : Instr) (s : State) : State :=
  match i with
  | .uTgBase x => withBuildAt 0#3 x s
  | .uTgSlice j x => withBuildAt j x s
  | .uInit => withCalcAt .calcSw .first 1 s.rem s
  | .uSwByte => withCalcAt .calcSw .loop 1 1 s
  | .uSwSlice8 => withCalcAt .calcSw .loop 8 8 s
  | .uHwFold1 => withCalcAt .calcHw .loop 1 1 s
  | .uHwFold2 => withCalcAt .calcHw .loop 2 2 s
  | .uHwFold4 => withCalcAt .calcHw .loop 4 4 s
  | .uHwFold8 => withCalcAt .calcHw .loop 8 8 s
  | .uFinal => withCalcAt .calcSw .loop 1 0 s
  | .featq | .tblgen | .calcSw _ _ _ | .calcHw _ _ _ => s

end Sys2Proof.Machine
end

