-- ==== Sys2Proof/Machine/Step.lean ====
section
/-! DEFINITION. One step: run what `turn` picks. And `withFetchWord`, which places an instruction where the next step
runs it. -/

namespace Sys2Proof.Machine

/-- One step of the whole: the block, and what stands outside it. -/
def step (s : State) : Host.Outcome State Fault Refusal :=
  match turn s with
  | .run i t => finish i (exec i t)
  | .quiet t => .next t
  | .fault r => .fault r
  | .refuse r => .refused r

/-- The state whose very next step runs the instruction of an encoding: a command word (32 bits) waits at `CMD` of an
idle block whose reset build is done, a micro-op label (16 bits) names the step the sequencer stands at. -/
def State.withFetchWord (s : State) (nbits w : Nat) : State :=
  if nbits = 32 then withCommand (BitVec.ofNat 32 w) s
  else
    match decodeTableWord nbits w with
    | some i => withMicroOp i s
    | none => s

end Sys2Proof.Machine
end

