-- ==== Sys2Proof/Safety.lean ====
section
/-! DEFINITION. The terms claims use: what a safe state and a normal end are (60_exceptions.md R227), the invariant of
the block (`BlockInv`), and the step counts of the two paths (43_software_engine.md R151, 44_hardware_engine.md R188). -/

namespace Sys2Proof.Machine

/-- No fault has happened since reset. A faulted state is never a normal end of a run (60_exceptions.md R227). -/
def State.Safe (s : State) : Prop := s.phase ≠ .faulted

/-- A normal end: the block is idle and nothing waits on the bus. -/
def State.NormalEnd (s : State) : Prop := s.phase = .idle ∧ s.bus = []

/-- `TABLE[j][i]` has its built value (42_table_generator.md R135). -/
def entryBuilt (t : Table) (j : BitVec 3) (i : BitVec 8) : Prop := t.get j i = tableValue j i

/-- Entry (j, i) comes before the counters (J, I) in the order of a build (42_table_generator.md R136). -/
def earlier (j : BitVec 3) (i : BitVec 8) (tgJ : BitVec 3) (tgI : BitVec 8) : Prop :=
  256 * j.toNat + i.toNat < 256 * tgJ.toNat + tgI.toNat

/-- The invariant of the block: it holds after reset and every step keeps it. -/
structure BlockInv (s : State) : Prop where
  /-- Buffer memory is in canonical form. -/
  memWf       : s.mem.wf = true
  /-- `TBL_READY` is 0 exactly during the reset table build (10_state.md R24, 70_reset_and_hazards.md R251). -/
  ready       : s.tblReady = true ↔ s.phase ≠ .resetTgen
  /-- Once `TBL_READY` = 1 every entry holds its value (10_state.md R28, 42_table_generator.md R135). -/
  tableDone   : s.tblReady = true → ∀ j i, entryBuilt s.table j i
  /-- During the reset table build the entries before the counters hold theirs. -/
  tablePart   : s.phase = .resetTgen → ∀ j i, earlier j i s.tgJ s.tgI → entryBuilt s.table j i
  /-- `ERR` is a fault code exactly in FAULTED (60_exceptions.md R221, R226). -/
  errFault    : s.err.isFault = true ↔ s.phase = .faulted
  /-- `ERR` is 0 while a command or the reset build runs (10_state.md R24). -/
  errBusy     : s.phase.busy = true → s.err = .ok
  /-- CALC_HW is entered only on a block with the path (44_hardware_engine.md R186). -/
  hwOnly      : s.phase = .calcHw → hwPresent s.cfg = true
  /-- A running CALC has bytes to fold (45_dispatch.md R206, R207). -/
  calcLen     : s.phase.inCalc = true → 0 < s.len
  /-- `PTR + REM = ADDR + LEN <= 2^ADDR_W` (20_memory.md R66). -/
  calcRange   : s.phase.inCalc = true → s.addr ≤ s.ptr ∧ s.ptr + s.rem = s.addr + s.len ∧
    s.addr + s.len ≤ addrSpace s.cfg
  /-- Before U_INIT the whole buffer is to come (45_dispatch.md R207). -/
  calcFirst   : s.phase.inCalc = true → s.stage = .first → s.ptr = s.addr
  /-- After U_INIT, folding what remains of the buffer into `ACC` gives the fold of the whole buffer, unless a byte of
  the buffer was written meanwhile (43_software_engine.md R158, 44_hardware_engine.md R188; 20_memory.md R67). -/
  calcFold    : s.phase.inCalc = true → s.stage = .loop → s.raced = false →
    fold s.acc (bytesAt s.mem s.ptr s.rem) = fold (not32 s.initLatch) (bytesAt s.mem s.addr s.len)
  /-- The `_HI` registers are 0 when ADDR_W = 32 (10_state.md R23). -/
  narrow      : s.cfg.addrW = .w32 → s.addrHi = 0#32 ∧ s.lenHi = 0#32 ∧ s.faultAddrHi = 0#32

/-- The number of prologue bytes of a CALC.SW: `h = min(LEN, (8 - ADDR mod 8) mod 8)` (43_software_engine.md R151). -/
def swPrologue (addr len : Nat) : Nat := min len ((8 - addr % 8) % 8)

/-- The micro-ops of a CALC.SW with `LEN > 0`, U_INIT and U_FINAL among them (43_software_engine.md R151). -/
def swMicroOps (addr len : Nat) : Nat := len - 7 * ((len - swPrologue addr len) / 8) + 2

/-- The `HwWidth` sequence of a buffer (44_hardware_engine.md R185), by fuel; `LEN` chunks are always enough. -/
def hwWidths : Nat → Nat → Nat → List ReadWidth
  | 0, _, _ => []
  | fuel + 1, ptr, rem =>
    if rem = 0 then []
    else hwWidth ptr rem :: hwWidths fuel (ptr + (hwWidth ptr rem).bytes) (rem - (hwWidth ptr rem).bytes)

/-- The micro-ops of a CALC.HW with `LEN > 0`: the chunks, U_INIT and U_FINAL (44_hardware_engine.md R188). -/
def hwMicroOps (addr len : Nat) : Nat := 1 + (hwWidths len addr len).length + 1

/-- The buffer micro-ops of a CALC.SW in order (43_software_engine.md R150), by fuel; `LEN` steps are always enough. -/
def swUops : Nat → Nat → Nat → List Instr
  | 0, _, _ => []
  | fuel + 1, ptr, rem =>
    if rem = 0 then []
    else if ptr % 8 ≠ 0 ∨ rem < 8 then .uSwByte :: swUops fuel (ptr + 1) (rem - 1)
    else .uSwSlice8 :: swUops fuel (ptr + 8) (rem - 8)

/-- The operands of a buffer micro-op of a width are as its rule states them: `REM` at least the width, `PTR` aligned
to it (43_software_engine.md R154, 44_hardware_engine.md R182 to R184). The schedules pick no other micro-op
(Laws/Sequencer.lean, `nextUop_fits`). -/
def operandsFit (w : ReadWidth) (s : State) : Bool := decide (w.bytes ≤ s.rem) && decide (s.ptr % w.bytes = 0)

/-- The width of the buffer read an instruction makes, if it makes one (20_memory.md R64). -/
def readWidth : Instr → Option ReadWidth
  | .uSwByte | .uHwFold1 => some .one
  | .uHwFold2 => some .two
  | .uHwFold4 => some .four
  | .uSwSlice8 | .uHwFold8 => some .eight
  | .featq | .tblgen | .calcSw _ _ _ | .calcHw _ _ _ | .uTgBase _ | .uTgSlice _ _ | .uInit | .uFinal => none

/-- The micro-op at place `k` of a build, k = 0 .. 2047 (42_table_generator.md R136). -/
def buildUop (k : Nat) : Instr :=
  if k < 256 then .uTgBase (BitVec.ofNat 8 k) else .uTgSlice (BitVec.ofNat 3 (k / 256)) (BitVec.ofNat 8 k)

/-- `k` steps, stopping at the first fault or refusal: `Host.Core.run` of the core (Laws/Run.lean). -/
def steps : Nat → State → Host.Outcome State Fault Refusal
  | 0, s => .next s
  | k + 1, s =>
    match step s with
    | .next t => steps k t
    | .fault r => .fault r
    | .refused r => .refused r

/-- An outcome with its next state changed. -/
def mapNext (f : State → State) : Host.Outcome State Fault Refusal → Host.Outcome State Fault Refusal
  | .next s => .next (f s)
  | .fault r => .fault r
  | .refused r => .refused r

/-- The sequencer takes the next step: no event waits, or the next event gives it the turn, or the next event is a
store that `BUSY` holds (10_state.md R57(b)). -/
def engineHasTurn (s : State) : Prop :=
  s.bus = [] ∨ (∃ rest, s.bus = .engine :: rest) ∨ (s.phase.busy = true ∧ ∃ r v rest, s.bus = .store r v :: rest)

/-- The host issues a command word to an idle block in the next step (45_dispatch.md R200). -/
def issues (w : Word) (s : State) : Prop := s.phase = .idle ∧ ∃ rest, s.bus = .store .cmd w :: rest

/-- The events after the next one. -/
def afterEvent (s : State) : State := { s with bus := s.bus.tail }

/-- The platform admits every read inside the buffer. -/
def bufferAdmitted (s : State) : Prop :=
  ∀ a w, s.addr ≤ a → a + w.bytes ≤ s.addr + s.len → memAdmit s.cfg a w = true

/-- The buffer's bytes: those at `ADDR .. ADDR+LEN-1` in increasing address order (20_memory.md R62). -/
def bufferBytes (s : State) : List Byte := bytesAt s.mem s.addr s.len

end Sys2Proof.Machine
end

