-- ==== Sys2Proof/Certificates/Slice0/Obligations.lean ====
section
/-! DEFINITION. The statements for the provers, each from a numbered rule of spec/ (or marked as the model's own). An
equation `exec i s = .next { s with ... }` says the instruction completes, what it writes, and that everything else
(every register, flag, counter, table entry and byte of memory not named) is unchanged. -/

open Sys2Proof Sys2Proof.Machine

/-! ## Encoding -/

/-- Decoding the encoding of a well-formed instruction gives the instruction back (R90, R91, R93, R99, R100). -/
def Obligations.DecodeOfEncode : Prop :=
  ∀ i : Instr, i.wf = true → decode (encode i) = .ok i

/-- What decodes is well formed, and its encoding is the word or label it was decoded from: each encoding has one
meaning, and no bit of it is dropped. -/
def Obligations.EncodeOfDecode : Prop :=
  ∀ (e : Encoding) (i : Instr), decode e = .ok i → i.wf = true ∧ encode i = e

/-- R95: `Decode`, case by case, on every 32-bit word; and an illegal word issued to an idle block completes with
ILLEGAL_COMMAND. -/
def Obligations.CommandDecodeFunction : Prop :=
  (∀ w : BitVec 32,
    (decodeCommand w = .ok .featq ↔
      w.extractLsb' 12 20 = 0#20 ∧ w.getLsbD 5 = false ∧ w.extractLsb' 0 4 = 1#4 ∧ w.extractLsb' 4 8 = 0#8) ∧
    (decodeCommand w = .ok .tblgen ↔
      w.extractLsb' 12 20 = 0#20 ∧ w.getLsbD 5 = false ∧ w.extractLsb' 0 4 = 2#4 ∧ w.extractLsb' 4 8 = 0#8) ∧
    (∀ f d k, decodeCommand w = .ok (.calcSw f d k) ↔
      w.extractLsb' 12 20 = 0#20 ∧ w.getLsbD 5 = false ∧ w.extractLsb' 0 4 = 3#4 ∧ w.getLsbD 4 = false ∧
      w.extractLsb' 6 2 = f.toBits ∧ w.extractLsb' 8 2 = d.toBits ∧ w.extractLsb' 10 2 = k.toBits) ∧
    (∀ f d k, decodeCommand w = .ok (.calcHw f d k) ↔
      w.extractLsb' 12 20 = 0#20 ∧ w.getLsbD 5 = false ∧ w.extractLsb' 0 4 = 3#4 ∧ w.getLsbD 4 = true ∧
      w.extractLsb' 6 2 = f.toBits ∧ w.extractLsb' 8 2 = d.toBits ∧ w.extractLsb' 10 2 = k.toBits) ∧
    (∀ i, decodeCommand w = .ok i → i.isCommand = true)) ∧
  (∀ (s : State) (w : BitVec 32) (e : DecodeError), issues w s → decodeCommand w = .error e →
    step s = .next { afterEvent s with err := .illegalCommand })

/-- R94: the reserved bits and the reserved values, and that a word holding one is illegal; no other word is. -/
def Obligations.ReservedWordsAreIllegal : Prop :=
  ∀ w : BitVec 32, (∃ e, decodeCommand w = .error e) ↔
    (w.getLsbD 5 = true ∨ w.extractLsb' 12 20 ≠ 0#20 ∨
     w.extractLsb' 0 4 = 0#4 ∨ 4 ≤ (w.extractLsb' 0 4).toNat ∨
     ((w.extractLsb' 0 4 = 1#4 ∨ w.extractLsb' 0 4 = 2#4) ∧ w.extractLsb' 4 8 ≠ 0#8) ∨
     (w.extractLsb' 0 4 = 3#4 ∧ (w.extractLsb' 6 2 = 3#2 ∨ w.extractLsb' 10 2 = 3#2)))

/-- R97: the canonical command words, and the formula of a CALC word; and a label of every micro-op, written out from
the tables of R99 and R100 (`UCODE | J<<4 | I<<8`). -/
def Obligations.CanonicalWordsAndLabels : Prop :=
  decodeCommand 0x00000001#32 = .ok .featq ∧
  decodeCommand 0x00000002#32 = .ok .tblgen ∧
  decodeCommand 0x00000003#32 = .ok (.calcSw .bool .bytes .default) ∧
  decodeCommand 0x00000403#32 = .ok (.calcSw .bool .bytes .u32) ∧
  decodeCommand 0x00000503#32 = .ok (.calcSw .bool .text .u32) ∧
  decodeCommand 0x00000013#32 = .ok (.calcHw .bool .bytes .default) ∧
  decodeCommand 0x00000413#32 = .ok (.calcHw .bool .bytes .u32) ∧
  decodeCommand 0x00000513#32 = .ok (.calcHw .bool .text .u32) ∧
  (∀ (f : FlagKind) (d : DataKind) (k : InitKind),
    decodeCommand (3#32 ||| f.toBits.setWidth 32 <<< 6 ||| d.toBits.setWidth 32 <<< 8 ||| k.toBits.setWidth 32 <<< 10)
      = .ok (.calcSw f d k) ∧
    decodeCommand (3#32 ||| 1#32 <<< 4 ||| f.toBits.setWidth 32 <<< 6 ||| d.toBits.setWidth 32 <<< 8
      ||| k.toBits.setWidth 32 <<< 10) = .ok (.calcHw f d k)) ∧
  decodeLabel 0x8001#16 = .ok (.uTgBase 0x80#8) ∧
  decodeLabel 0x0112#16 = .ok (.uTgSlice 1#3 0x01#8) ∧
  decodeLabel 0xFF72#16 = .ok (.uTgSlice 7#3 0xFF#8) ∧
  decodeLabel 0x0003#16 = .ok .uInit ∧
  decodeLabel 0x0004#16 = .ok .uSwByte ∧
  decodeLabel 0x0005#16 = .ok .uSwSlice8 ∧
  decodeLabel 0x0006#16 = .ok .uHwFold1 ∧
  decodeLabel 0x0007#16 = .ok .uHwFold2 ∧
  decodeLabel 0x0008#16 = .ok .uHwFold4 ∧
  decodeLabel 0x0009#16 = .ok .uHwFold8 ∧
  decodeLabel 0x000A#16 = .ok .uFinal

/-! ## Steps -/

/-- R200 with R57(c): a command word issued to an idle block is decoded, and the step is exec of the instruction, the
event being taken off the bus. -/
def Obligations.StepRunsIssuedCommand : Prop :=
  ∀ (s : State) (w : Word) (i : Instr), issues w s → decodeCommand w = .ok i → step s = exec i (afterEvent s)

/-- R20, R99: on the sequencer's turn the step is exec of the scheduled micro-op, after which the sequencer moves on
(`advance`); an event that only gave it the turn is taken off the bus, a held store stays on it. -/
def Obligations.StepRunsScheduledMicroOp : Prop :=
  ∀ (s : State) (i : Instr), nextUop s = some i →
    (s.bus = [] → step s = mapNext (advance i) (exec i s)) ∧
    (∀ rest, s.bus = .engine :: rest → step s = mapNext (advance i) (exec i (afterEvent s))) ∧
    (∀ r v rest, s.bus = .store r v :: rest → step s = mapNext (advance i) (exec i s))

/-- R52, R136, R150, R180, R207: which micro-op the sequencer runs next, by phase. -/
def Obligations.SchedulePicksMicroOp : Prop :=
  ∀ s : State,
    (s.phase = .idle ∨ s.phase = .faulted → nextUop s = none) ∧
    (s.phase = .resetTgen ∨ s.phase = .tgen →
      nextUop s = some (if s.tgJ = 0#3 then .uTgBase s.tgI else .uTgSlice s.tgJ s.tgI)) ∧
    (s.phase.inCalc = true → s.stage = .first → nextUop s = some .uInit) ∧
    (s.phase.inCalc = true → s.stage = .loop → s.rem = 0 → nextUop s = some .uFinal) ∧
    (s.phase = .calcSw → s.stage = .loop → 0 < s.rem → (s.ptr % 8 ≠ 0 ∨ s.rem < 8) → nextUop s = some .uSwByte) ∧
    (s.phase = .calcSw → s.stage = .loop → 8 ≤ s.rem → s.ptr % 8 = 0 → nextUop s = some .uSwSlice8) ∧
    (s.phase = .calcHw → s.stage = .loop → 0 < s.rem → ∃ i w, nextUop s = some i ∧ readWidth i = some w ∧
      i ≠ .uSwByte ∧ i ≠ .uSwSlice8 ∧ w = hwWidth s.ptr s.rem)

/-- R134: what the sequencer does after a micro-op: the counters go through a build in R136's order, the last
U_TG_SLICE ends it with `TBL_READY <- 1` and completion, `RESULT` is not written; U_INIT is followed by the loop;
and no step but reset clears `TBL_READY`. That the counters stay at 7 and 255 at the end of a build is the model's
choice (notes/assumptions/6.md): R134 does not say what they hold then. -/
def Obligations.BuildOrderAndEnd : Prop :=
  (∀ (s : State) (x : BitVec 8), x ≠ 255#8 → advance (.uTgBase x) s = { s with tgI := x + 1#8 }) ∧
  (∀ s : State, advance (.uTgBase 255#8) s = { s with tgJ := 1#3, tgI := 0#8 }) ∧
  (∀ (s : State) (j : BitVec 3) (x : BitVec 8), x ≠ 255#8 → advance (.uTgSlice j x) s = { s with tgI := x + 1#8 }) ∧
  (∀ (s : State) (j : BitVec 3), j ≠ 7#3 → advance (.uTgSlice j 255#8) s = { s with tgJ := j + 1#3, tgI := 0#8 }) ∧
  (∀ s : State, advance (.uTgSlice 7#3 255#8) s = { s with tblReady := true, err := .ok, phase := .idle }) ∧
  (∀ s : State, advance .uInit s = { s with stage := .loop }) ∧
  (∀ s t : State, step s = .next t → s.tblReady = true → t.tblReady = true ∨ ∃ rest, s.bus = .reset :: rest)

/-- A step stops only on a register access that is not an aligned 32-bit access, which is refused, and on a write to
memory at an address that does not exist: the schedules never issue a micro-op on operands its rule excludes. R58 says
that a model refuses such an access; that it does so in every phase, FAULTED among them, is the model's choice
(notes/assumptions/8.md). R30(b) says what memory there is; that a write outside it stops the step is the model's choice
(notes/assumptions/9.md). -/
def Obligations.StepStopsOnlyOnTheseEvents : Prop :=
  ∀ s : State,
    (∀ r, step s = .fault r → r = .noSuchAddress ∧ ∃ a b rest, s.bus = .memWrite a b :: rest ∧ addrSpace s.cfg ≤ a) ∧
    (∀ r, step s = .refused r → r = .regSubword ∧ ∃ rest, s.bus = .subword :: rest) ∧
    (∀ rest, s.bus = .subword :: rest → step s = .refused .regSubword)

/-! ## FEATQ and TBLGEN -/

/-- R120, R123: FEATQ's word, its result `CPUID_AVAILABLE and FEATURE_WORD[20]`, that it changes only `RESULT` and
`STATUS.ERR`, and that a non-canonical word with `OP` = 1 completes with ILLEGAL_COMMAND. -/
def Obligations.FeatqReportsHwPresent : Prop :=
  decodeCommand 0x00000001#32 = .ok .featq ∧
  (∀ s : State, s.phase = .idle → exec .featq s = .next { s with
    result := if s.cfg.cpuidAvailable = true ∧ s.cfg.featureWord.getLsbD 20 = true then 1#32 else 0#32
    err := .ok }) ∧
  (∀ (s : State) (w : BitVec 32), issues w s → w.extractLsb' 0 4 = 1#4 → w ≠ 1#32 →
    step s = .next { afterEvent s with err := .illegalCommand }) ∧
  (∀ s t : State, s.phase = .idle → s.tblReady = true → s.cfg.cpuidAvailable = true →
    s.cfg.featureWord = 0x00100000#32 → exec .featq s = .next t →
    t.result = 0x00000001#32 ∧ t.statusWord = 0x00000002#32)

/-- No run changes the platform's parameters, so FEATQ returns the same value every time it executes, whatever steps
lie between. Between two resets that is R21 and R122; that the platform survives a reset too, which a step of the run
may be, is the model's choice (notes/assumptions/1.md, notes/assumptions/5.md). -/
def Obligations.FeatqIsStable : Prop :=
  ∀ (k : Nat) (s t : State), steps k s = .next t →
    t.cfg = s.cfg ∧ ∃ u v, exec .featq s = .next u ∧ exec .featq t = .next v ∧ u.result = v.result

/-- R136's acceptance: TBLGEN completes its acceptance step in phase TGEN with the counters at 0 and `ERR` 0. -/
def Obligations.TblgenStartsBuild : Prop :=
  decodeCommand 0x00000002#32 = .ok .tblgen ∧
  ∀ s : State, exec .tblgen s = .next { s with err := .ok, phase := .tgen, tgJ := 0#3, tgI := 0#8 }

/-- R136, R137: TBLGEN issued to an idle block takes exactly 2048 micro-ops, U_TG_BASE for i = 0 .. 255 and then
U_TG_SLICE for j = 1 .. 7 and i = 0 .. 255; `BUSY` is 1 and `ERR` 0 all along, the table has the same contents at
every step, and at the end the block is idle with `RESULT` and everything else as before (the counters stand at the
last entry: the model's choice, notes/assumptions/6.md). -/
def Obligations.TblgenRebuildsSameTable : Prop :=
  ∀ s : State, BlockInv s → s.phase = .idle → s.bus = [.store .cmd 0x00000002#32] →
    (∀ k, k < 2048 → ∃ t, steps (k + 1) s = .next t ∧ t.phase = .tgen ∧ t.phase.busy = true ∧ t.err = .ok ∧
      t.table = s.table ∧ t.result = s.result ∧ nextUop t = some (buildUop k)) ∧
    steps (1 + 2048) s = .next { s with bus := [], err := .ok, tgJ := 7#3, tgI := 255#8 }

/-! ## The table -/

/-- R131: `Div8` is eight iterations of the division step, is linear over XOR, and acts on the low byte only. -/
def Obligations.Div8IsLinear : Prop :=
  (∀ c : Word, div8 c =
    (fun x : Word => if x.getLsbD 0 = true then (x >>> 1) ^^^ 0x82F63B78#32 else x >>> 1)^[8] c) ∧
  (∀ a b : Word, div8 (a ^^^ b) = div8 a ^^^ div8 b) ∧
  (∀ c : Word, div8 c = div8 (c &&& 0xFF#32) ^^^ (c >>> 8))

/-- R132: U_TG_BASE's label; it writes `Div8(i)` to `TABLE[0][i]` and nothing else; its corner cases and example. -/
def Obligations.UTgBaseWritesEntry : Prop :=
  (∀ i : BitVec 8, decodeLabel (0x0001#16 ||| i.setWidth 16 <<< 8) = .ok (.uTgBase i)) ∧
  (∀ (s : State) (i : BitVec 8), ∃ tbl : Table, exec (.uTgBase i) s = .next { s with table := tbl } ∧
    tbl.get 0#3 i = div8 (i.setWidth 32) ∧
    ∀ j' i', ¬(j' = 0#3 ∧ i' = i) → tbl.get j' i' = s.table.get j' i') ∧
  div8 0#32 = 0#32 ∧ div8 0x80#32 = 0x82F63B78#32 ∧ div8 1#32 = 0xF26B8303#32

/-- R133: U_TG_SLICE's label; it writes `TABLE[0][p[7:0]] XOR (p >> 8)` to `TABLE[j][i]`, p being `TABLE[j-1][i]`, and
nothing else; its example. Slice 0 is no operand of it: the model stops by name there (notes/assumptions/7.md). -/
def Obligations.USliceWritesEntry : Prop :=
  (∀ (j : BitVec 3) (i : BitVec 8), j ≠ 0#3 →
    decodeLabel (0x0002#16 ||| j.setWidth 16 <<< 4 ||| i.setWidth 16 <<< 8) = .ok (.uTgSlice j i)) ∧
  (∀ (s : State) (j : BitVec 3) (i : BitVec 8), j ≠ 0#3 →
    ∃ tbl : Table, exec (.uTgSlice j i) s = .next { s with table := tbl } ∧
      tbl.get j i = s.table.get 0#3 ((s.table.get (j - 1#3) i).extractLsb' 0 8) ^^^ (s.table.get (j - 1#3) i >>> 8) ∧
      ∀ j' i', ¬(j' = j ∧ i' = i) → tbl.get j' i' = s.table.get j' i') ∧
  (∀ s t : State, s.table.get 0#3 1#8 = 0xF26B8303#32 → s.table.get 0#3 3#8 = 0x1350F3F4#32 →
    exec (.uTgSlice 1#3 1#8) s = .next t → t.table.get 1#3 1#8 = 0x13A29877#32) ∧
  (∀ (s : State) (i : BitVec 8), exec (.uTgSlice 0#3 i) s = .fault .sliceZero)

/-- R135: what a completed build leaves in an entry is `Div8` applied j+1 times to i; equivalently, the CRC register
after folding byte i and then j zero bytes into a zero register. -/
def Obligations.TableValueIsFoldOfByteAndZeros : Prop :=
  ∀ (j : BitVec 3) (i : BitVec 8),
    tableValue j i = div8^[j.toNat + 1] (i.setWidth 32) ∧
    fold 0#32 (i :: List.replicate j.toNat 0#8) = tableValue j i

/-- R251, R135: from the start of the reset table build, whatever `TABLE` holds, 2048 steps of the sequencer leave the
block idle with `TBL_READY` = 1, `ERR` = 0 and every `TABLE[j][i]` at `Div8` applied j+1 times to i, everything else
being unchanged but the counters. -/
def Obligations.ResetBuildFillsTable : Prop :=
  ∀ s : State, s.phase = .resetTgen → s.tgJ = 0#3 → s.tgI = 0#8 → s.bus = [] →
    ∃ tbl : Table,
      steps 2048 s = .next { s with
        table := tbl, tblReady := true, err := .ok, phase := .idle, tgJ := 7#3, tgI := 255#8 } ∧
      ∀ (j : BitVec 3) (i : BitVec 8), tbl.get j i = div8^[j.toNat + 1] (i.setWidth 32)

/-! ## The acceptance of a CALC -/

/-- R202: the five argument conditions, on either path, each give INVALID_ARGUMENT at acceptance and change nothing
else. -/
def Obligations.CalcRejectsBadArguments : Prop :=
  ∀ (s : State) (f : FlagKind) (d : DataKind) (k : InitKind), s.phase = .idle →
    (f = .notBool ∨ f = .absent ∨ d = .absent ∨ d = .other ∨ k = .notU32) →
    exec (.calcSw f d k) s = .next { s with err := .invalidArgument } ∧
    exec (.calcHw f d k) s = .next { s with err := .invalidArgument }

/-- R204: a buffer that would wrap gives INVALID_ARGUMENT at acceptance, on either path, and changes nothing else. -/
def Obligations.CalcRejectsWrappingBuffer : Prop :=
  ∀ (s : State) (f : FlagKind) (d : DataKind) (k : InitKind), s.phase = .idle →
    2 ^ s.cfg.addrW.bits < s.addr + s.len →
    exec (.calcSw f d k) s = .next { s with err := .invalidArgument } ∧
    exec (.calcHw f d k) s = .next { s with err := .invalidArgument }

/-- R205, R225: CALC.HW with valid arguments on a block without the path raises HW_PATH_UNSUPPORTED at acceptance for
every `LEN`; `FAULT_ADDR`, `RESULT` and all else are unchanged. -/
def Obligations.CalcHwFaultsWithoutPath : Prop :=
  ∀ (s : State) (d : DataKind) (k : InitKind), (d = .bytes ∨ d = .text) → k ≠ .notU32 →
    s.addr + s.len ≤ 2 ^ s.cfg.addrW.bits →
    ¬(s.cfg.cpuidAvailable = true ∧ s.cfg.featureWord.getLsbD 20 = true) →
    exec (.calcHw .bool d k) s = .next { s with err := .hwPathUnsupported, phase := .faulted }

/-- R206: a CALC that passes the checks with `LEN` = 0 completes at acceptance with `RESULT <- initial`, which is 0 for
the default initial CRC, on either path. -/
def Obligations.ZeroLengthReturnsInitial : Prop :=
  ∀ (s : State) (d : DataKind), s.phase = .idle → (d = .bytes ∨ d = .text) → s.len = 0 →
    exec (.calcSw .bool d .default) s = .next { s with err := .ok, result := 0#32 } ∧
    exec (.calcSw .bool d .u32) s = .next { s with err := .ok, result := s.init } ∧
    (hwPresent s.cfg = true →
      exec (.calcHw .bool d .default) s = .next { s with err := .ok, result := 0#32 } ∧
      exec (.calcHw .bool d .u32) s = .next { s with err := .ok, result := s.init })

/-- R207 (with R96, R200): a CALC that passes the checks with `LEN` > 0 latches its initial value, sets `PTR` and `REM`
to `ADDR` and `LEN`, enters its path's phase, and U_INIT is the next micro-op. The two CALC commands complete their
acceptance step here. The register the model keeps for R67 (a buffer byte written meanwhile) is cleared. -/
def Obligations.CalcStarts : Prop :=
  ∀ (s : State) (d : DataKind) (k : InitKind), (d = .bytes ∨ d = .text) → k ≠ .notU32 →
    s.addr + s.len ≤ 2 ^ s.cfg.addrW.bits → 0 < s.len →
    (∃ t, exec (.calcSw .bool d k) s = .next t ∧
      t = { s with err := .ok, initLatch := if k = .default then 0#32 else s.init,
                   ptr := s.addr, rem := s.len, phase := .calcSw, stage := .first, raced := false } ∧
      nextUop t = some .uInit) ∧
    (hwPresent s.cfg = true → ∃ t, exec (.calcHw .bool d k) s = .next t ∧
      t = { s with err := .ok, initLatch := if k = .default then 0#32 else s.init,
                   ptr := s.addr, rem := s.len, phase := .calcHw, stage := .first, raced := false } ∧
      nextUop t = some .uInit)

/-! ## The micro-ops of a CALC -/

/-- R152: U_INIT's label; it sets `ACC` to the latched initial value, inverted, and nothing else; it is the first
micro-op of every CALC with `LEN` > 0; its corner cases and example. -/
def Obligations.UInitLoadsInverted : Prop :=
  decodeLabel 0x0003#16 = .ok .uInit ∧
  (∀ s : State, s.phase.inCalc = true → s.stage = .first → nextUop s = some .uInit) ∧
  (∀ s : State, exec .uInit s = .next { s with acc := s.initLatch ^^^ 0xFFFFFFFF#32 }) ∧
  (∀ s t : State, exec .uInit s = .next t →
    (s.initLatch = 0#32 → t.acc = 0xFFFFFFFF#32) ∧ (s.initLatch = 0xFFFFFFFF#32 → t.acc = 0#32) ∧
    (s.initLatch = 0x12345678#32 → t.acc = 0xEDCBA987#32))

/-- R153: U_SW_BYTE's label; it folds the byte at `PTR` by a slice-0 lookup, moves `PTR` and `REM` by 1, and changes nothing else;
an unadmitted read raises MEMORY_FAULT at `PTR` and leaves `ACC`, `PTR` and `REM`. -/
def Obligations.USwByteFoldsOneByte : Prop :=
  decodeLabel 0x0004#16 = .ok .uSwByte ∧
  (∀ s : State, 1 ≤ s.rem → memAdmit s.cfg s.ptr .one = true →
    exec .uSwByte s = .next { s with
      acc := s.table.get 0#3 ((s.acc ^^^ (s.mem.read s.ptr).setWidth 32).extractLsb' 0 8) ^^^ (s.acc >>> 8)
      ptr := s.ptr + 1
      rem := s.rem - 1 }) ∧
  (∀ s : State, memAdmit s.cfg s.ptr .one = false →
    exec .uSwByte s = .next (raiseFault .memoryFault s)) ∧
  (∀ s t : State, 1 ≤ s.rem → memAdmit s.cfg s.ptr .one = true → (∀ j i, entryBuilt s.table j i) →
    exec .uSwByte s = .next t →
      (s.acc = 0xFFFFFFFF#32 → s.mem.read s.ptr = 0x31#8 → t.acc = 0x6F0A661C#32) ∧
      (s.acc = 0#32 → s.mem.read s.ptr = 0#8 → t.acc = 0#32))

/-- R154: U_SW_SLICE8's label; it combines the little-endian word at `PTR` with `ACC` in its low half, looks up its eight bytes,
byte 0 in slice 7 through byte 7 in slice 0, moves `PTR` and `REM` by 8, and changes nothing else; an unadmitted read
raises MEMORY_FAULT at `PTR` and leaves `ACC`, `PTR` and `REM`. -/
def Obligations.USwSlice8FoldsEightBytes : Prop :=
  decodeLabel 0x0005#16 = .ok .uSwSlice8 ∧
  (∀ (s : State) (w x : BitVec 64), 8 ≤ s.rem → memAdmit s.cfg s.ptr .eight = true →
    (∀ n, n < 8 → w.extractLsb' (8 * n) 8 = s.mem.read (s.ptr + n)) → x = w ^^^ s.acc.setWidth 64 →
    exec .uSwSlice8 s = .next { s with
      acc := s.table.get 7#3 (x.extractLsb' 0 8) ^^^ s.table.get 6#3 (x.extractLsb' 8 8) ^^^
        s.table.get 5#3 (x.extractLsb' 16 8) ^^^ s.table.get 4#3 (x.extractLsb' 24 8) ^^^
        s.table.get 3#3 (x.extractLsb' 32 8) ^^^ s.table.get 2#3 (x.extractLsb' 40 8) ^^^
        s.table.get 1#3 (x.extractLsb' 48 8) ^^^ s.table.get 0#3 (x.extractLsb' 56 8)
      ptr := s.ptr + 8
      rem := s.rem - 8 }) ∧
  (∀ s : State, memAdmit s.cfg s.ptr .eight = false →
    exec .uSwSlice8 s = .next (raiseFault .memoryFault s)) ∧
  (∀ (s t : State) (w : BitVec 64), 8 ≤ s.rem → memAdmit s.cfg s.ptr .eight = true →
    (∀ n, n < 8 → w.extractLsb' (8 * n) 8 = s.mem.read (s.ptr + n)) → (∀ j i, entryBuilt s.table j i) →
    exec .uSwSlice8 s = .next t →
      (s.acc = 0xFFFFFFFF#32 → w = 0x3837363534333231#64 → t.acc = 0x9F787F65#32) ∧
      (s.acc = 0#32 → w = 0#64 → t.acc = 0#32))

/-- R181: U_HW_FOLD1's label; it folds one byte with `Div8`, and equals U_SW_BYTE on the same operands once the table is built;
unadmitted, it raises MEMORY_FAULT. -/
def Obligations.UHwFold1FoldsOneByte : Prop :=
  decodeLabel 0x0006#16 = .ok .uHwFold1 ∧
  (∀ s : State, 1 ≤ s.rem → memAdmit s.cfg s.ptr .one = true →
    exec .uHwFold1 s = .next { s with
      acc := div8 (s.acc ^^^ (s.mem.read s.ptr).setWidth 32)
      ptr := s.ptr + 1
      rem := s.rem - 1 }) ∧
  (∀ s : State, memAdmit s.cfg s.ptr .one = false →
    exec .uHwFold1 s = .next (raiseFault .memoryFault s)) ∧
  (∀ s : State, (∀ j i, entryBuilt s.table j i) → exec .uHwFold1 s = exec .uSwByte s) ∧
  div8 (0xFFFFFFFF#32 ^^^ 0x31#32) = 0x6F0A661C#32 ∧ div8 (0#32 ^^^ 0x31#32) = 0xC288CAB2#32 ∧
  div8 (0#32 ^^^ 0#32) = 0#32

/-- R182: U_HW_FOLD2's label; it folds two bytes, the one at the lower address first; unadmitted, it raises MEMORY_FAULT. -/
def Obligations.UHwFold2FoldsTwoBytes : Prop :=
  decodeLabel 0x0007#16 = .ok .uHwFold2 ∧
  (∀ s : State, 2 ≤ s.rem → memAdmit s.cfg s.ptr .two = true →
    exec .uHwFold2 s = .next { s with
      acc := div8 (div8 (s.acc ^^^ (s.mem.read s.ptr).setWidth 32) ^^^ (s.mem.read (s.ptr + 1)).setWidth 32)
      ptr := s.ptr + 2
      rem := s.rem - 2 }) ∧
  (∀ s : State, memAdmit s.cfg s.ptr .two = false →
    exec .uHwFold2 s = .next (raiseFault .memoryFault s)) ∧
  div8 (div8 (0xFFFFFFFF#32 ^^^ 0x31#32) ^^^ 0x32#32) = 0x8CAA3B9F#32

/-- R183: U_HW_FOLD4's label; it folds four bytes in increasing address order, which is `Div8` applied four times to `ACC XOR v`,
v being the little-endian value of the four; unadmitted, it raises MEMORY_FAULT. -/
def Obligations.UHwFold4FoldsFourBytes : Prop :=
  decodeLabel 0x0008#16 = .ok .uHwFold4 ∧
  (∀ s : State, 4 ≤ s.rem → memAdmit s.cfg s.ptr .four = true →
    exec .uHwFold4 s = .next { s with
      acc := fold s.acc [s.mem.read s.ptr, s.mem.read (s.ptr + 1), s.mem.read (s.ptr + 2), s.mem.read (s.ptr + 3)]
      ptr := s.ptr + 4
      rem := s.rem - 4 }) ∧
  (∀ (s : State) (v : Word), 4 ≤ s.rem → memAdmit s.cfg s.ptr .four = true →
    (∀ n, n < 4 → v.extractLsb' (8 * n) 8 = s.mem.read (s.ptr + n)) →
    ∃ t, exec .uHwFold4 s = .next t ∧ t.acc = div8 (div8 (div8 (div8 (s.acc ^^^ v))))) ∧
  (∀ s : State, memAdmit s.cfg s.ptr .four = false →
    exec .uHwFold4 s = .next (raiseFault .memoryFault s)) ∧
  fold 0xFFFFFFFF#32 [0x31#8, 0x32#8, 0x33#8, 0x34#8] = 0x09C50B11#32

/-- R184: U_HW_FOLD8's label; it folds eight bytes in increasing address order, and equals U_SW_SLICE8 on the same operands once
the table is built; unadmitted, it raises MEMORY_FAULT. -/
def Obligations.UHwFold8FoldsEightBytes : Prop :=
  decodeLabel 0x0009#16 = .ok .uHwFold8 ∧
  (∀ s : State, 8 ≤ s.rem → memAdmit s.cfg s.ptr .eight = true →
    exec .uHwFold8 s = .next { s with
      acc := fold s.acc [s.mem.read s.ptr, s.mem.read (s.ptr + 1), s.mem.read (s.ptr + 2), s.mem.read (s.ptr + 3),
        s.mem.read (s.ptr + 4), s.mem.read (s.ptr + 5), s.mem.read (s.ptr + 6), s.mem.read (s.ptr + 7)]
      ptr := s.ptr + 8
      rem := s.rem - 8 }) ∧
  (∀ s : State, memAdmit s.cfg s.ptr .eight = false →
    exec .uHwFold8 s = .next (raiseFault .memoryFault s)) ∧
  (∀ s : State, (∀ j i, entryBuilt s.table j i) → exec .uHwFold8 s = exec .uSwSlice8 s) ∧
  fold 0xFFFFFFFF#32 [0x31#8, 0x32#8, 0x33#8, 0x34#8, 0x35#8, 0x36#8, 0x37#8, 0x38#8] = 0x9F787F65#32 ∧
  fold 0#32 [0x31#8, 0x32#8, 0x33#8, 0x34#8, 0x35#8, 0x36#8, 0x37#8, 0x38#8] = 0xECAF3210#32

/-- The model's own (notes/assumptions/7.md): each of the six buffer micro-ops completes with fewer bytes left than its
width too, as its rule says but for `REM`, whose value the rules do not give there: it is free
(`Config.remBelowZero`). No schedule runs one so. -/
def Obligations.RemBelowWidthIsFree : Prop :=
  ∀ (s : State) (i : Instr) (w : ReadWidth) (r : Nat), readWidth i = some w → s.rem < w.bytes → w.bytes ≤ r →
    memAdmit s.cfg s.ptr w = true →
    ∃ t, exec i { s with rem := r } = .next t ∧ exec i s = .next { t with rem := Config.remBelowZero s.rem w.bytes }

/-- R155: U_FINAL's label; it writes the inverted accumulator to `RESULT` and completes OK; nothing else changes. -/
def Obligations.UFinalDeliversResult : Prop :=
  decodeLabel 0x000A#16 = .ok .uFinal ∧
  (∀ s : State, s.raced = false →
    exec .uFinal s = .next { s with result := s.acc ^^^ 0xFFFFFFFF#32, err := .ok, phase := .idle }) ∧
  (∀ s t : State, s.raced = false → exec .uFinal s = .next t →
    (s.acc = 0xFFFFFFFF#32 → t.result = 0#32) ∧ (s.acc = 0x1CF96D7C#32 → t.result = 0xE3069283#32))

/-- R67, decision D19: when a byte of the buffer was written during the CALC, it still completes with the same code,
and `RESULT` is a free value (`Config.freeWord`, of which nothing can be proved); the count of free values taken is
the model's own (notes/assumptions/4.md). -/
def Obligations.RacedCalcDeliversFreeValue : Prop :=
  ∀ s : State, s.raced = true →
    exec .uFinal s = .next { s with
      result := Config.freeWord s.freeCount, freeCount := s.freeCount + 1, err := .ok, phase := .idle }

/-- R226: fault entry writes `ERR` and `PHASE`, and for MEMORY_FAULT `FAULT_ADDR <- zext_64(PTR)`; nothing else is
written. -/
def Obligations.FaultEntryWritesOnlyThese : Prop :=
  (∀ s : State, ∃ t, raiseFault .memoryFault s = t ∧
    t = { s with err := .memoryFault, phase := .faulted, faultAddrLo := t.faultAddrLo, faultAddrHi := t.faultAddrHi } ∧
    t.faultAddrHi ++ t.faultAddrLo = BitVec.ofNat 64 s.ptr) ∧
  (∀ s : State, raiseFault .hwPathUnsupported s = { s with err := .hwPathUnsupported, phase := .faulted }) ∧
  (∀ (s : State) (c : ErrCode), (raiseFault c s).phase.fault = true ∧ (raiseFault c s).phase.busy = false)

/-! ## The schedules -/

/-- R185: `HwWidth` is the largest width that fits in what remains and is aligned at `PTR`, and three sequences. -/
def Obligations.HwWidthIsLargestAlignedChunk : Prop :=
  (∀ ptr rem : Nat, 0 < rem →
    (hwWidth ptr rem).bytes ≤ rem ∧ ptr % (hwWidth ptr rem).bytes = 0 ∧
    ∀ w : ReadWidth, w.bytes ≤ rem → ptr % w.bytes = 0 → w.bytes ≤ (hwWidth ptr rem).bytes) ∧
  (hwWidths 20 0x1001 20).map ReadWidth.bytes = [1, 2, 4, 8, 4, 1] ∧
  (hwWidths 16 0x1007 16).map ReadWidth.bytes = [1, 8, 4, 2, 1] ∧
  (hwWidths 12 0x1004 12).map ReadWidth.bytes = [4, 8]

/-- R151: `SwNext` as a function of `PTR` and `REM`, and the shape it gives a CALC.SW: h prologue bytes, then the
slices, then the tail bytes, and how many micro-ops that makes with U_INIT and U_FINAL. -/
def Obligations.SwScheduleShape : Prop :=
  (∀ ptr rem : Nat,
    (rem = 0 → swNext ptr rem = .uFinal) ∧
    (0 < rem → (ptr % 8 ≠ 0 ∨ rem < 8) → swNext ptr rem = .uSwByte) ∧
    (8 ≤ rem → ptr % 8 = 0 → swNext ptr rem = .uSwSlice8)) ∧
  (∀ addr len h : Nat, 0 < len → h = min len ((8 - addr % 8) % 8) →
    swUops len addr len =
      List.replicate h Instr.uSwByte ++ List.replicate ((len - h) / 8) Instr.uSwSlice8 ++
        List.replicate ((len - h) % 8) Instr.uSwByte ∧
    h ≤ 7 ∧
    (swUops len addr len).length = len - 7 * ((len - h) / 8) ∧
    (swUops len addr len).length + 2 = swMicroOps addr len)

/-- R65, R66, R67: while a CALC runs, every buffer read is aligned to its width and lies inside the buffer, and
`PTR + REM = ADDR + LEN <= 2^ADDR_W`. -/
def Obligations.BufferReadsAlignedAndInside : Prop :=
  ∀ (s : State) (i : Instr) (w : ReadWidth), BlockInv s → nextUop s = some i → readWidth i = some w →
    s.ptr % w.bytes = 0 ∧ s.addr ≤ s.ptr ∧ s.ptr + w.bytes ≤ s.addr + s.len ∧
    s.ptr + s.rem = s.addr + s.len ∧ s.addr + s.len ≤ 2 ^ s.cfg.addrW.bits

/-! ## The checksum -/

/-- R156: once the table is built, the byte step is `Div8(a XOR b)`, and so is U_SW_BYTE's effect. -/
def Obligations.ByteStepIsTableFree : Prop :=
  (∀ (t : Table) (a : Word) (b : Byte), (∀ j i, entryBuilt t j i) →
    t.get 0#3 ((a ^^^ b.setWidth 32).extractLsb' 0 8) ^^^ (a >>> 8) = div8 (a ^^^ b.setWidth 32)) ∧
  (∀ s : State, (∀ j i, entryBuilt s.table j i) → 1 ≤ s.rem → memAdmit s.cfg s.ptr .one = true →
    exec .uSwByte s = .next { s with
      acc := div8 (s.acc ^^^ (s.mem.read s.ptr).setWidth 32), ptr := s.ptr + 1, rem := s.rem - 1 })

/-- R157: once the table is built, the slice step equals eight successive byte steps on the word's bytes, lowest
first. -/
def Obligations.SliceIsEightByteSteps : Prop :=
  ∀ (t : Table) (a : Word) (w : BitVec 64), (∀ j i, entryBuilt t j i) →
    swSlice8 t a w =
      swByte t (swByte t (swByte t (swByte t (swByte t (swByte t (swByte t (swByte t a
        (w.extractLsb' 0 8)) (w.extractLsb' 8 8)) (w.extractLsb' 16 8)) (w.extractLsb' 24 8))
        (w.extractLsb' 32 8)) (w.extractLsb' 40 8)) (w.extractLsb' 48 8)) (w.extractLsb' 56 8)

/-- R210: `Crc32c` and its complement form on every byte sequence, and the check value. -/
def Obligations.Crc32cIsComplementedFold : Prop :=
  (∀ a : Word, fold a [] = a) ∧
  (∀ (a : Word) (b : Byte) (bs : List Byte), fold a (b :: bs) = fold (div8 (a ^^^ b.setWidth 32)) bs) ∧
  (∀ (c : Word) (bs : List Byte), crc32c c bs = not32 (fold (not32 c) bs)) ∧
  crc32c 0#32 [0x31#8, 0x32#8, 0x33#8, 0x34#8, 0x35#8, 0x36#8, 0x37#8, 0x38#8, 0x39#8] = 0xE3069283#32

/-- R211: chaining. -/
def Obligations.Crc32cChains : Prop :=
  ∀ (c : Word) (bs cs : List Byte), crc32c (crc32c c bs) cs = crc32c c (bs ++ cs)

/-- R61, R63: a wide read is little-endian: its byte k is the byte at `a + k`; and a narrower read at the same address
is its low part. -/
def Obligations.MemReadIsLittleEndian : Prop :=
  ∀ (m : Memory) (a n k : Nat), k < n →
    (memRead m a n).extractLsb' (8 * k) 8 = m.read (a + k) ∧
    (memRead m a n).extractLsb' 0 (8 * k) = memRead m a k

/-- R158 (with R151's count): a CALC.SW issued to an idle block with valid arguments and an admitted buffer that
nobody writes completes OK after its acceptance step and exactly the micro-ops of R151 in their order, the block being
in CALC_SW until the last, with `RESULT` the CRC-32C of the buffer's bytes from the initial value; the other registers,
table and memory are as before. `PTR` is a natural number and ends at `ADDR + LEN`, 2^ADDR_W for a buffer that ends at
the top of memory: the model's choice (notes/assumptions/10.md). -/
def Obligations.CalcSwComputesCrc32c : Prop :=
  ∀ (s : State) (w : Word) (d : DataKind) (k : InitKind), BlockInv s → s.phase = .idle → s.bus = [.store .cmd w] →
    decodeCommand w = .ok (.calcSw .bool d k) → (d = .bytes ∨ d = .text) → k ≠ .notU32 →
    s.addr + s.len ≤ 2 ^ s.cfg.addrW.bits → 0 < s.len → bufferAdmitted s →
    (∀ n, n < swMicroOps s.addr s.len → ∃ u, steps (n + 1) s = .next u ∧ u.phase = .calcSw ∧
      nextUop u = (Instr.uInit :: (swUops s.len s.addr s.len ++ [Instr.uFinal]))[n]?) ∧
    ∃ t, steps (1 + swMicroOps s.addr s.len) s = .next t ∧
      t.result = crc32c (if k = .default then 0#32 else s.init) (bufferBytes s) ∧
      t = { s with bus := [], err := .ok, result := t.result, acc := t.acc, ptr := s.addr + s.len, rem := 0,
                   initLatch := t.initLatch, stage := .loop, raced := false }

/-- R188 (with its count): the same of CALC.HW on a block with the path, in CALC_HW until its last
micro-op, `PTR` again a natural number (notes/assumptions/10.md). -/
def Obligations.CalcHwComputesCrc32c : Prop :=
  ∀ (s : State) (w : Word) (d : DataKind) (k : InitKind), BlockInv s → s.phase = .idle → s.bus = [.store .cmd w] →
    decodeCommand w = .ok (.calcHw .bool d k) → (d = .bytes ∨ d = .text) → k ≠ .notU32 →
    s.addr + s.len ≤ 2 ^ s.cfg.addrW.bits → 0 < s.len → hwPresent s.cfg = true → bufferAdmitted s →
    (∀ n, n < hwMicroOps s.addr s.len → ∃ u, steps (n + 1) s = .next u ∧ u.phase = .calcHw ∧
      nextUop u = (Instr.uInit :: ((hwWidths s.len s.addr s.len).map hwFoldOf ++ [Instr.uFinal]))[n]?) ∧
    ∃ t, steps (1 + hwMicroOps s.addr s.len) s = .next t ∧
      t.result = crc32c (if k = .default then 0#32 else s.init) (bufferBytes s) ∧
      t = { s with bus := [], err := .ok, result := t.result, acc := t.acc, ptr := s.addr + s.len, rem := 0,
                   initLatch := t.initLatch, stage := .loop, raced := false }

/-- R62, R212: what a U_FINAL of either path delivers, in any state the invariant holds of and however the bus
interleaves with the CALC, is the CRC-32C of the bytes in the buffer from the latched initial value, if no byte of the
buffer was written: it depends on nothing else. The mark of such a write is the model's own
(notes/assumptions/4.md). -/
def Obligations.EveryFinalDeliversCrc32c : Prop :=
  ∀ s t : State, BlockInv s → s.raced = false → engineHasTurn s → nextUop s = some .uFinal → step s = .next t →
    t.result = crc32c s.initLatch (bufferBytes s) ∧ t.phase = .idle ∧ t.err = .ok

/-! ## Whole-machine rules -/

/-- The invariant holds after reset, whose unspecified values (notes/assumptions/2.md) it says nothing of. -/
def Obligations.ResetMeetsInvariant : Prop := BlockInv State.reset

/-- Every step keeps the invariant, from every state that meets it. Its clauses on a CALC use the model's own mark
`raced` (notes/assumptions/4.md) and naturals for `PTR` and `REM` (notes/assumptions/10.md). -/
def Obligations.StepKeepsInvariant : Prop :=
  ∀ s t : State, BlockInv s → step s = .next t → BlockInv t

/-- R60: no step of the block writes buffer memory (only an event that is a write by another agent does), and outside a
CALC a step does not read it: with any other memory contents it does the same. -/
def Obligations.EngineOnlyReadsMemoryInCalc : Prop :=
  (∀ s t : State, step s = .next t → (¬∃ a b rest, s.bus = .memWrite a b :: rest) → t.mem = s.mem) ∧
  (∀ (s : State) (m : Memory), s.phase.inCalc = false → (¬∃ a b rest, s.bus = .memWrite a b :: rest) →
    step { s with mem := m } = mapNext (fun t => { t with mem := m }) (step s))

/-- R27, R138, R76: only a table micro-op of a build, or reset, writes `TABLE`. Every instruction but U_TG_SLICE,
U_SW_BYTE and U_SW_SLICE8 is independent of what it holds: with any other table the commands, U_INIT, the folds and
U_FINAL do the same and leave that table, and U_TG_BASE does the same and sets the same entry of it. -/
def Obligations.TableWritersAndReaders : Prop :=
  (∀ s t : State, step s = .next t → t.table ≠ s.table →
    s.phase = .resetTgen ∨ s.phase = .tgen ∨ ∃ rest, s.bus = .reset :: rest) ∧
  (∀ (s : State) (tbl : Table) (i : Instr), (∀ x, i ≠ .uTgBase x) → (∀ j x, i ≠ .uTgSlice j x) →
    i ≠ .uSwByte → i ≠ .uSwSlice8 →
    exec i { s with table := tbl } = mapNext (fun t => { t with table := tbl }) (exec i s)) ∧
  (∀ (s : State) (tbl : Table) (x : BitVec 8),
    exec (.uTgBase x) { s with table := tbl } =
      mapNext (fun t => { t with table := tbl.set 0#3 x (div8 (x.setWidth 32)) }) (exec (.uTgBase x) s))

/-- R227: in FAULTED every store is ignored, loads return the state as it is, the sequencer takes no step, and only
reset leaves; and a faulted state is no normal end of a run. -/
def Obligations.FaultedUntilReset : Prop :=
  ∀ s : State, s.phase = .faulted →
    (∀ r v rest, s.bus = .store r v :: rest → step s = .next (afterEvent s)) ∧
    (∀ r rest, s.bus = .load r :: rest → step s = .next { afterEvent s with loads := s.loads ++ [readReg r s] }) ∧
    (∀ rest, s.bus = .engine :: rest → step s = .next (afterEvent s)) ∧
    (s.bus = [] → step s = .next s) ∧
    (∀ t, step s = .next t → t.phase = .faulted ∨ ∃ rest, s.bus = .reset :: rest) ∧
    ¬s.NormalEnd

/-- R225, R224, R221: a step enters FAULTED only by accepting a CALC.HW on a block without the path, or by a scheduled
buffer read that is not admitted, whose address `FAULT_ADDR` then holds. -/
def Obligations.OnlyTheseStepsFault : Prop :=
  ∀ s t : State, step s = .next t → s.phase ≠ .faulted → t.phase = .faulted →
    (t.err = .hwPathUnsupported ∧ hwPresent s.cfg = false ∧
      ∃ w f d k, issues w s ∧ decodeCommand w = .ok (.calcHw f d k)) ∨
    (t.err = .memoryFault ∧ engineHasTurn s ∧
      ∃ i w, nextUop s = some i ∧ readWidth i = some w ∧ memAdmit s.cfg s.ptr w = false ∧
        t.faultAddrHi ++ t.faultAddrLo = BitVec.ofNat 64 s.ptr)

/-- R209: `complete` writes `ERR` and `PHASE`; a step writes `RESULT` only by FEATQ, by a zero-length CALC, by U_FINAL,
or by reset. -/
def Obligations.OnlyTheseStepsWriteResult : Prop :=
  (∀ (c : ErrCode) (s : State), complete c s = { s with err := c, phase := .idle }) ∧
  (∀ s t : State, step s = .next t → t.result ≠ s.result →
    (∃ rest, s.bus = .reset :: rest) ∨
    (∃ w, issues w s ∧ decodeCommand w = .ok .featq) ∨
    (∃ w d k, issues w s ∧ s.len = 0 ∧
      (decodeCommand w = .ok (.calcSw .bool d k) ∨ decodeCommand w = .ok (.calcHw .bool d k))) ∨
    (engineHasTurn s ∧ nextUop s = some .uFinal))

/-- R57: a host store is ignored while FAULT = 1; while BUSY = 1 it is held, the sequencer stepping meanwhile; otherwise
it replaces the register's value, issues a command, or is ignored, as its offset says (R23: the `_HI` registers ignore
stores when ADDR_W = 32). -/
def Obligations.HostStoresTakeEffect : Prop :=
  ∀ (s : State) (r : Reg) (v : Word) (rest : List BusEvent), s.bus = .store r v :: rest →
    (s.phase = .faulted → step s = .next (afterEvent s)) ∧
    (s.phase.busy = true → ∃ i, nextUop s = some i ∧ step s = mapNext (advance i) (exec i s) ∧
      ∀ t, step s = .next t → t.bus = s.bus) ∧
    (s.phase = .idle →
      (r = .init → step s = .next { afterEvent s with init := v }) ∧
      (r = .addrLo → step s = .next { afterEvent s with addrLo := v }) ∧
      (r = .addrHi → s.cfg.addrW = .w64 → step s = .next { afterEvent s with addrHi := v }) ∧
      (r = .addrHi → s.cfg.addrW = .w32 → step s = .next (afterEvent s)) ∧
      (r = .lenLo → step s = .next { afterEvent s with lenLo := v }) ∧
      (r = .lenHi → s.cfg.addrW = .w64 → step s = .next { afterEvent s with lenHi := v }) ∧
      (r = .lenHi → s.cfg.addrW = .w32 → step s = .next (afterEvent s)) ∧
      (r = .cmd → ∀ i, decodeCommand v = .ok i → step s = exec i (afterEvent s)) ∧
      (r = .cmd → ∀ e, decodeCommand v = .error e → step s = .next { afterEvent s with err := .illegalCommand }) ∧
      (r = .status ∨ r = .result ∨ r = .faultAddrLo ∨ r = .faultAddrHi ∨ (∃ k, r = .reserved k) →
        step s = .next (afterEvent s)))

/-- R56: a host load in any phase returns the register's value at that moment, never stalls, and changes nothing but
what the host has read; and a step that leaves the block busy leaves `RESULT` (so a load while `BUSY` = 1 returns the
value from before the running command). -/
def Obligations.HostLoadsReturnCurrentValue : Prop :=
  (∀ (s : State) (r : Reg) (rest : List BusEvent), s.bus = .load r :: rest →
    step s = .next { afterEvent s with loads := s.loads ++ [readReg r s] }) ∧
  (∀ s t : State, step s = .next t → t.phase.busy = true → (¬∃ rest, s.bus = .reset :: rest) → t.result = s.result)

/-- R23, R24, R52, R220: what each offset of the block returns to a load, and the fields of the `STATUS` word. -/
def Obligations.RegistersReadAsTheMapSays : Prop :=
  ∀ s : State,
    readReg .cmd s = 0#32 ∧ readReg .status s = s.statusWord ∧ readReg .init s = s.init ∧
    readReg .result s = s.result ∧ readReg .addrLo s = s.addrLo ∧ readReg .lenLo s = s.lenLo ∧
    readReg .faultAddrLo s = s.faultAddrLo ∧ (∀ k, readReg (.reserved k) s = 0#32) ∧
    (s.cfg.addrW = .w64 → readReg .addrHi s = s.addrHi ∧ readReg .lenHi s = s.lenHi ∧
      readReg .faultAddrHi s = s.faultAddrHi) ∧
    (s.cfg.addrW = .w32 → readReg .addrHi s = 0#32 ∧ readReg .lenHi s = 0#32 ∧ readReg .faultAddrHi s = 0#32) ∧
    (s.statusWord.getLsbD 0 = true ↔
      s.phase = .resetTgen ∨ s.phase = .tgen ∨ s.phase = .calcSw ∨ s.phase = .calcHw) ∧
    s.statusWord.getLsbD 1 = s.tblReady ∧
    (s.statusWord.getLsbD 2 = true ↔ s.phase = .faulted) ∧
    s.statusWord.getLsbD 3 = false ∧
    s.statusWord.extractLsb' 4 4 = (match s.err with
      | .ok => 0#4
      | .invalidArgument => 1#4
      | .illegalCommand => 2#4
      | .hwPathUnsupported => 3#4
      | .memoryFault => 4#4) ∧
    s.statusWord.extractLsb' 8 24 = 0#24

/-- R59, R250: reset, at any time, gives the block the reset values and starts the reset table build. The state after
reset has the same values. That buffer memory, the platform and the host side (the events to come, the values loaded)
come through a reset unchanged is the model's choice (notes/assumptions/5.md). -/
def Obligations.ResetGivesResetValues : Prop :=
  (∀ (s : State) (rest : List BusEvent), s.bus = .reset :: rest → ∃ t, step s = .next t ∧
    t.statusWord = 0x00000001#32 ∧ t.phase = .resetTgen ∧ t.tblReady = false ∧ t.err = .ok ∧ t.tgJ = 0#3 ∧
    t.tgI = 0#8 ∧ t.init = 0#32 ∧ t.result = 0#32 ∧ t.addrLo = 0#32 ∧ t.addrHi = 0#32 ∧ t.lenLo = 0#32 ∧
    t.lenHi = 0#32 ∧ t.faultAddrLo = 0#32 ∧ t.faultAddrHi = 0#32 ∧
    nextUop t = some (.uTgBase 0#8) ∧ t.mem = s.mem ∧ t.cfg = s.cfg ∧ t.bus = rest ∧ t.loads = s.loads) ∧
  (State.reset.statusWord = 0x00000001#32 ∧ State.reset.phase = .resetTgen ∧ State.reset.tgJ = 0#3 ∧
    State.reset.tgI = 0#8 ∧ State.reset.init = 0#32 ∧ State.reset.result = 0#32 ∧ State.reset.addrLo = 0#32 ∧
    State.reset.addrHi = 0#32 ∧ State.reset.lenLo = 0#32 ∧ State.reset.lenHi = 0#32 ∧
    State.reset.faultAddrLo = 0#32 ∧ State.reset.faultAddrHi = 0#32)

/-- R67, R73: a write to buffer memory by another agent writes that byte and no other, and marks a running CALC exactly
when the byte lies in its buffer; the mark is the model's own (notes/assumptions/4.md). R30(b) says what memory there
is; that a write at an address outside it stops the step is the model's choice (notes/assumptions/9.md). -/
def Obligations.MemoryWritesByOthers : Prop :=
  ∀ (s : State) (a : Nat) (b : Byte) (rest : List BusEvent), s.bus = .memWrite a b :: rest →
    (s.mem.wf = true → a < 2 ^ s.cfg.addrW.bits → ∃ t, step s = .next t ∧
      t.mem.read a = b ∧ (∀ x, x ≠ a → t.mem.read x = s.mem.read x) ∧ t.mem.wf = true ∧
      t = { afterEvent s with mem := t.mem, raced := t.raced } ∧
      (t.raced = true ↔ s.raced = true ∨ (s.phase.inCalc = true ∧ s.addr ≤ a ∧ a < s.addr + s.len))) ∧
    (2 ^ s.cfg.addrW.bits ≤ a → step s = .fault .noSuchAddress)

/-- R8, R23, R58, R70: `CRC_BASE` is an address of ADDR_W bits, and the address map: an aligned 32-bit access at
`CRC_BASE` + offset reaches the register of that offset and no other access does; an access is outside exactly when it
touches none of the block's 0x40 bytes. That those bytes do not wrap, so that of a block that runs past the top of the
address space only the bytes below the top exist, is the model's choice (notes/assumptions/1.md). -/
def Obligations.AddressMapOfTheBlock : Prop :=
  (∀ p : Platform, blockBase p < 2 ^ p.addrW.bits ∧ blockBase p = p.crcBase.toNat % 2 ^ p.addrW.bits) ∧
  (∀ (p : Platform) (r : Reg), blockBase p + r.offset + 4 ≤ 2 ^ p.addrW.bits →
    route p (blockBase p + r.offset) .four = .reg r) ∧
  (∀ (p : Platform) (a : Nat) (w : ReadWidth) (r : Reg), route p a w = .reg r →
    w = .four ∧ a = blockBase p + r.offset ∧ a + 4 ≤ 2 ^ p.addrW.bits) ∧
  (∀ (p : Platform) (a : Nat) (w : ReadWidth), route p a w = .outside ↔
    ¬∃ x, a ≤ x ∧ x < a + w.bytes ∧ blockBase p ≤ x ∧ x < blockBase p + 0x40 ∧ x < 2 ^ p.addrW.bits)

/-- R104 (with R103), each pseudo-instruction. `crc.setbuf a, n` leaves an idle block with `ADDR` = a and `LEN` = n and
nothing else changed; on a block with ADDR_W = 32 the stores to the `_HI` registers have no effect. `crc.available`
hands the host what FEATQ reports. One turn of `crc.wait` loads `STATUS` and ends the loop when bit 0 is 0; that the
sequencer takes exactly one step before the next turn is the model's choice (notes/assumptions/16.md). From every state
the loop ends, with bit 0 of every load 1 but of the last, and the block is not busy then. `crc.calculate h, a, n, c`
leaves the host with a `STATUS` s and a `RESULT` r, r being the CRC-32C from c of the n bytes at a when s[7:4] = 0, which
is so whenever the path is there, the buffer does not wrap and its reads are admitted. -/
def Obligations.HostProgramsOfR104 : Prop :=
  (∀ (s : State) (a n : BitVec 64) (rest : List BusEvent), s.phase = .idle → s.bus = crcSetbuf a n ++ rest →
    s.cfg.addrW = .w64 → ∃ t, steps 4 s = .next t ∧
      t = { s with bus := rest, addrLo := t.addrLo, addrHi := t.addrHi, lenLo := t.lenLo, lenHi := t.lenHi } ∧
      t.addr = a.toNat ∧ t.len = n.toNat) ∧
  (∀ (s : State) (a n : BitVec 64) (rest : List BusEvent), s.phase = .idle → s.bus = crcSetbuf a n ++ rest →
    s.cfg.addrW = .w32 → ∃ t, steps 4 s = .next t ∧
      t = { s with bus := rest, addrLo := t.addrLo, lenLo := t.lenLo } ∧
      t.addr = a.toNat % 2 ^ 32 ∧ t.len = n.toNat % 2 ^ 32) ∧
  (∀ (s : State) (rest : List BusEvent), s.phase = .idle → s.bus = crcAvailable ++ rest →
    steps 2 s = .next { s with
      bus := rest
      err := .ok
      result := if hwPresent s.cfg = true then 1#32 else 0#32
      loads := s.loads ++ [if hwPresent s.cfg = true then 1#32 else 0#32] }) ∧
  (∀ (s : State) (rest : List BusEvent), s.bus = .poll :: rest →
    step s = .next { afterEvent s with
      loads := s.loads ++ [s.statusWord]
      bus := if s.statusWord.getLsbD 0 = true then .engine :: .poll :: rest else rest }) ∧
  (∀ (s : State) (rest : List BusEvent), s.bus = crcWait ++ rest → ∃ (k : Nat) (t : State) (pre : List Word) (v : Word),
    steps k s = .next t ∧ t.bus = rest ∧ t.phase.busy = false ∧ t.loads = s.loads ++ pre ++ [v] ∧
    (∀ x ∈ pre, x.getLsbD 0 = true) ∧ v.getLsbD 0 = false) ∧
  (∀ (s : State) (h : Bool) (a n : BitVec 64) (c : Word) (rest : List BusEvent), BlockInv s → s.phase = .idle →
    s.bus = crcCalculate h a n c ++ rest →
    ∃ (k : Nat) (t : State) (pre : List Word) (st r : Word), steps k s = .next t ∧ t.bus = rest ∧ t.mem = s.mem ∧
      t.loads = s.loads ++ pre ++ [st, r] ∧ st.getLsbD 0 = false ∧
      (st.extractLsb' 4 4 = 0#4 →
        r = crc32c c (bytesAt s.mem (a.toNat % 2 ^ s.cfg.addrW.bits) (n.toNat % 2 ^ s.cfg.addrW.bits))) ∧
      ((h = true → hwPresent s.cfg = true) →
        a.toNat % 2 ^ s.cfg.addrW.bits + n.toNat % 2 ^ s.cfg.addrW.bits ≤ 2 ^ s.cfg.addrW.bits →
        (∀ x w, a.toNat % 2 ^ s.cfg.addrW.bits ≤ x →
          x + w.bytes ≤ a.toNat % 2 ^ s.cfg.addrW.bits + n.toNat % 2 ^ s.cfg.addrW.bits →
          memAdmit s.cfg x w = true) →
        st.extractLsb' 4 4 = 0#4))
end

