-- ==== Sys2Proof/Laws/Decode.lean ====
section
/-! SUPPORT. The argument-kind fields and their names (30_encoding.md R93). -/

namespace Sys2Proof

@[simp] theorem FlagKind.ofBits_toBits (f : FlagKind) : FlagKind.ofBits f.toBits = some f := by cases f <;> rfl

@[simp] theorem DataKind.ofBits_toBits (d : DataKind) : DataKind.ofBits d.toBits = d := by cases d <;> rfl

@[simp] theorem InitKind.ofBits_toBits (k : InitKind) : InitKind.ofBits k.toBits = some k := by cases k <;> rfl

theorem FlagKind.ofBits_eq_some {v : BitVec 2} {f : FlagKind} : FlagKind.ofBits v = some f ↔ v = f.toBits := by
  revert v; cases f <;> decide

theorem FlagKind.ofBits_eq_none {v : BitVec 2} : FlagKind.ofBits v = none ↔ v = 3#2 := by
  revert v; decide

theorem DataKind.toBits_ofBits (v : BitVec 2) : (DataKind.ofBits v).toBits = v := by
  revert v; decide

theorem InitKind.ofBits_eq_some {v : BitVec 2} {k : InitKind} : InitKind.ofBits v = some k ↔ v = k.toBits := by
  revert v; cases k <;> decide

theorem InitKind.ofBits_eq_none {v : BitVec 2} : InitKind.ofBits v = none ↔ v = 3#2 := by
  revert v; decide

/-! ## The fields of a label (R99) -/

@[simp] theorem encodeLabel_ucode (i : BitVec 8) (j : BitVec 3) (u : BitVec 4) :
    (encodeLabel i j u).extractLsb' 0 4 = u := by
  ext k hk
  simp [encodeLabel, show k < 16 by omega, hk, show k < 8 by omega]

@[simp] theorem encodeLabel_j (i : BitVec 8) (j : BitVec 3) (u : BitVec 4) :
    (encodeLabel i j u).extractLsb' 4 3 = j := by
  ext k hk
  simp [encodeLabel, show 4 + k < 16 by omega, show 4 + k < 8 by omega, BitVec.getLsbD_eq_getElem hk]

@[simp] theorem encodeLabel_i (i : BitVec 8) (j : BitVec 3) (u : BitVec 4) :
    (encodeLabel i j u).extractLsb' 8 8 = i := by
  ext k hk
  simp [encodeLabel, show 8 + k < 16 by omega, BitVec.getLsbD_eq_getElem hk,
    BitVec.getLsbD_of_ge j (8 + k - 4) (by omega), BitVec.getLsbD_of_ge u (8 + k) (by omega)]

@[simp] theorem encodeLabel_bit7 (i : BitVec 8) (j : BitVec 3) (u : BitVec 4) :
    (encodeLabel i j u)[7] = false := by
  simp [encodeLabel]

end Sys2Proof
end

