-- ==== Sys2Proof/Laws/State.lean ====
section
/-! SUPPORT. What each named update of the state does to each field, so that no proof unfolds a record update. -/

namespace Sys2Proof.Machine

variable (s : State)

/-! ## accept -/

@[simp] theorem accept_cfg : (accept s).cfg = s.cfg := rfl
@[simp] theorem accept_phase : (accept s).phase = s.phase := rfl
@[simp] theorem accept_tblReady : (accept s).tblReady = s.tblReady := rfl
@[simp] theorem accept_err : (accept s).err = .ok := rfl
@[simp] theorem accept_init : (accept s).init = s.init := rfl
@[simp] theorem accept_result : (accept s).result = s.result := rfl
@[simp] theorem accept_addrLo : (accept s).addrLo = s.addrLo := rfl
@[simp] theorem accept_addrHi : (accept s).addrHi = s.addrHi := rfl
@[simp] theorem accept_lenLo : (accept s).lenLo = s.lenLo := rfl
@[simp] theorem accept_lenHi : (accept s).lenHi = s.lenHi := rfl
@[simp] theorem accept_faultAddrLo : (accept s).faultAddrLo = s.faultAddrLo := rfl
@[simp] theorem accept_faultAddrHi : (accept s).faultAddrHi = s.faultAddrHi := rfl
@[simp] theorem accept_table : (accept s).table = s.table := rfl
@[simp] theorem accept_acc : (accept s).acc = s.acc := rfl
@[simp] theorem accept_ptr : (accept s).ptr = s.ptr := rfl
@[simp] theorem accept_rem : (accept s).rem = s.rem := rfl
@[simp] theorem accept_initLatch : (accept s).initLatch = s.initLatch := rfl
@[simp] theorem accept_stage : (accept s).stage = s.stage := rfl
@[simp] theorem accept_tgJ : (accept s).tgJ = s.tgJ := rfl
@[simp] theorem accept_tgI : (accept s).tgI = s.tgI := rfl
@[simp] theorem accept_mem : (accept s).mem = s.mem := rfl
@[simp] theorem accept_bus : (accept s).bus = s.bus := rfl
@[simp] theorem accept_loads : (accept s).loads = s.loads := rfl
@[simp] theorem accept_raced : (accept s).raced = s.raced := rfl
@[simp] theorem accept_freeCount : (accept s).freeCount = s.freeCount := rfl

/-! ## complete -/

@[simp] theorem complete_cfg (c : ErrCode) : (complete c s).cfg = s.cfg := rfl
@[simp] theorem complete_phase (c : ErrCode) : (complete c s).phase = .idle := rfl
@[simp] theorem complete_tblReady (c : ErrCode) : (complete c s).tblReady = s.tblReady := rfl
@[simp] theorem complete_err (c : ErrCode) : (complete c s).err = c := rfl
@[simp] theorem complete_init (c : ErrCode) : (complete c s).init = s.init := rfl
@[simp] theorem complete_result (c : ErrCode) : (complete c s).result = s.result := rfl
@[simp] theorem complete_addrLo (c : ErrCode) : (complete c s).addrLo = s.addrLo := rfl
@[simp] theorem complete_addrHi (c : ErrCode) : (complete c s).addrHi = s.addrHi := rfl
@[simp] theorem complete_lenLo (c : ErrCode) : (complete c s).lenLo = s.lenLo := rfl
@[simp] theorem complete_lenHi (c : ErrCode) : (complete c s).lenHi = s.lenHi := rfl
@[simp] theorem complete_faultAddrLo (c : ErrCode) : (complete c s).faultAddrLo = s.faultAddrLo := rfl
@[simp] theorem complete_faultAddrHi (c : ErrCode) : (complete c s).faultAddrHi = s.faultAddrHi := rfl
@[simp] theorem complete_table (c : ErrCode) : (complete c s).table = s.table := rfl
@[simp] theorem complete_acc (c : ErrCode) : (complete c s).acc = s.acc := rfl
@[simp] theorem complete_ptr (c : ErrCode) : (complete c s).ptr = s.ptr := rfl
@[simp] theorem complete_rem (c : ErrCode) : (complete c s).rem = s.rem := rfl
@[simp] theorem complete_initLatch (c : ErrCode) : (complete c s).initLatch = s.initLatch := rfl
@[simp] theorem complete_stage (c : ErrCode) : (complete c s).stage = s.stage := rfl
@[simp] theorem complete_tgJ (c : ErrCode) : (complete c s).tgJ = s.tgJ := rfl
@[simp] theorem complete_tgI (c : ErrCode) : (complete c s).tgI = s.tgI := rfl
@[simp] theorem complete_mem (c : ErrCode) : (complete c s).mem = s.mem := rfl
@[simp] theorem complete_bus (c : ErrCode) : (complete c s).bus = s.bus := rfl
@[simp] theorem complete_loads (c : ErrCode) : (complete c s).loads = s.loads := rfl
@[simp] theorem complete_raced (c : ErrCode) : (complete c s).raced = s.raced := rfl
@[simp] theorem complete_freeCount (c : ErrCode) : (complete c s).freeCount = s.freeCount := rfl

/-! ## illegalCommand -/

@[simp] theorem illegalCommand_cfg : (illegalCommand s).cfg = s.cfg := rfl
@[simp] theorem illegalCommand_phase : (illegalCommand s).phase = .idle := rfl
@[simp] theorem illegalCommand_tblReady : (illegalCommand s).tblReady = s.tblReady := rfl
@[simp] theorem illegalCommand_err : (illegalCommand s).err = .illegalCommand := rfl
@[simp] theorem illegalCommand_init : (illegalCommand s).init = s.init := rfl
@[simp] theorem illegalCommand_result : (illegalCommand s).result = s.result := rfl
@[simp] theorem illegalCommand_addrLo : (illegalCommand s).addrLo = s.addrLo := rfl
@[simp] theorem illegalCommand_addrHi : (illegalCommand s).addrHi = s.addrHi := rfl
@[simp] theorem illegalCommand_lenLo : (illegalCommand s).lenLo = s.lenLo := rfl
@[simp] theorem illegalCommand_lenHi : (illegalCommand s).lenHi = s.lenHi := rfl
@[simp] theorem illegalCommand_faultAddrLo : (illegalCommand s).faultAddrLo = s.faultAddrLo := rfl
@[simp] theorem illegalCommand_faultAddrHi : (illegalCommand s).faultAddrHi = s.faultAddrHi := rfl
@[simp] theorem illegalCommand_table : (illegalCommand s).table = s.table := rfl
@[simp] theorem illegalCommand_acc : (illegalCommand s).acc = s.acc := rfl
@[simp] theorem illegalCommand_ptr : (illegalCommand s).ptr = s.ptr := rfl
@[simp] theorem illegalCommand_rem : (illegalCommand s).rem = s.rem := rfl
@[simp] theorem illegalCommand_initLatch : (illegalCommand s).initLatch = s.initLatch := rfl
@[simp] theorem illegalCommand_stage : (illegalCommand s).stage = s.stage := rfl
@[simp] theorem illegalCommand_tgJ : (illegalCommand s).tgJ = s.tgJ := rfl
@[simp] theorem illegalCommand_tgI : (illegalCommand s).tgI = s.tgI := rfl
@[simp] theorem illegalCommand_mem : (illegalCommand s).mem = s.mem := rfl
@[simp] theorem illegalCommand_bus : (illegalCommand s).bus = s.bus := rfl
@[simp] theorem illegalCommand_loads : (illegalCommand s).loads = s.loads := rfl
@[simp] theorem illegalCommand_raced : (illegalCommand s).raced = s.raced := rfl
@[simp] theorem illegalCommand_freeCount : (illegalCommand s).freeCount = s.freeCount := rfl

/-! ## recordFaultAddr -/

@[simp] theorem recordFaultAddr_cfg : (recordFaultAddr s).cfg = s.cfg := rfl
@[simp] theorem recordFaultAddr_phase : (recordFaultAddr s).phase = s.phase := rfl
@[simp] theorem recordFaultAddr_tblReady : (recordFaultAddr s).tblReady = s.tblReady := rfl
@[simp] theorem recordFaultAddr_err : (recordFaultAddr s).err = s.err := rfl
@[simp] theorem recordFaultAddr_init : (recordFaultAddr s).init = s.init := rfl
@[simp] theorem recordFaultAddr_result : (recordFaultAddr s).result = s.result := rfl
@[simp] theorem recordFaultAddr_addrLo : (recordFaultAddr s).addrLo = s.addrLo := rfl
@[simp] theorem recordFaultAddr_addrHi : (recordFaultAddr s).addrHi = s.addrHi := rfl
@[simp] theorem recordFaultAddr_lenLo : (recordFaultAddr s).lenLo = s.lenLo := rfl
@[simp] theorem recordFaultAddr_lenHi : (recordFaultAddr s).lenHi = s.lenHi := rfl
@[simp] theorem recordFaultAddr_faultAddrLo : (recordFaultAddr s).faultAddrLo = (BitVec.ofNat 64 s.ptr).extractLsb' 0 32 := rfl
@[simp] theorem recordFaultAddr_faultAddrHi : (recordFaultAddr s).faultAddrHi = (BitVec.ofNat 64 s.ptr).extractLsb' 32 32 := rfl
@[simp] theorem recordFaultAddr_table : (recordFaultAddr s).table = s.table := rfl
@[simp] theorem recordFaultAddr_acc : (recordFaultAddr s).acc = s.acc := rfl
@[simp] theorem recordFaultAddr_ptr : (recordFaultAddr s).ptr = s.ptr := rfl
@[simp] theorem recordFaultAddr_rem : (recordFaultAddr s).rem = s.rem := rfl
@[simp] theorem recordFaultAddr_initLatch : (recordFaultAddr s).initLatch = s.initLatch := rfl
@[simp] theorem recordFaultAddr_stage : (recordFaultAddr s).stage = s.stage := rfl
@[simp] theorem recordFaultAddr_tgJ : (recordFaultAddr s).tgJ = s.tgJ := rfl
@[simp] theorem recordFaultAddr_tgI : (recordFaultAddr s).tgI = s.tgI := rfl
@[simp] theorem recordFaultAddr_mem : (recordFaultAddr s).mem = s.mem := rfl
@[simp] theorem recordFaultAddr_bus : (recordFaultAddr s).bus = s.bus := rfl
@[simp] theorem recordFaultAddr_loads : (recordFaultAddr s).loads = s.loads := rfl
@[simp] theorem recordFaultAddr_raced : (recordFaultAddr s).raced = s.raced := rfl
@[simp] theorem recordFaultAddr_freeCount : (recordFaultAddr s).freeCount = s.freeCount := rfl

/-! ## freeResult -/

@[simp] theorem freeResult_cfg : (freeResult s).cfg = s.cfg := rfl
@[simp] theorem freeResult_phase : (freeResult s).phase = s.phase := rfl
@[simp] theorem freeResult_tblReady : (freeResult s).tblReady = s.tblReady := rfl
@[simp] theorem freeResult_err : (freeResult s).err = s.err := rfl
@[simp] theorem freeResult_init : (freeResult s).init = s.init := rfl
@[simp] theorem freeResult_result : (freeResult s).result = Config.freeWord s.freeCount := rfl
@[simp] theorem freeResult_addrLo : (freeResult s).addrLo = s.addrLo := rfl
@[simp] theorem freeResult_addrHi : (freeResult s).addrHi = s.addrHi := rfl
@[simp] theorem freeResult_lenLo : (freeResult s).lenLo = s.lenLo := rfl
@[simp] theorem freeResult_lenHi : (freeResult s).lenHi = s.lenHi := rfl
@[simp] theorem freeResult_faultAddrLo : (freeResult s).faultAddrLo = s.faultAddrLo := rfl
@[simp] theorem freeResult_faultAddrHi : (freeResult s).faultAddrHi = s.faultAddrHi := rfl
@[simp] theorem freeResult_table : (freeResult s).table = s.table := rfl
@[simp] theorem freeResult_acc : (freeResult s).acc = s.acc := rfl
@[simp] theorem freeResult_ptr : (freeResult s).ptr = s.ptr := rfl
@[simp] theorem freeResult_rem : (freeResult s).rem = s.rem := rfl
@[simp] theorem freeResult_initLatch : (freeResult s).initLatch = s.initLatch := rfl
@[simp] theorem freeResult_stage : (freeResult s).stage = s.stage := rfl
@[simp] theorem freeResult_tgJ : (freeResult s).tgJ = s.tgJ := rfl
@[simp] theorem freeResult_tgI : (freeResult s).tgI = s.tgI := rfl
@[simp] theorem freeResult_mem : (freeResult s).mem = s.mem := rfl
@[simp] theorem freeResult_bus : (freeResult s).bus = s.bus := rfl
@[simp] theorem freeResult_loads : (freeResult s).loads = s.loads := rfl
@[simp] theorem freeResult_raced : (freeResult s).raced = s.raced := rfl
@[simp] theorem freeResult_freeCount : (freeResult s).freeCount = s.freeCount + 1 := rfl

/-! ## startBuild -/

@[simp] theorem startBuild_cfg : (startBuild s).cfg = s.cfg := rfl
@[simp] theorem startBuild_phase : (startBuild s).phase = .tgen := rfl
@[simp] theorem startBuild_tblReady : (startBuild s).tblReady = s.tblReady := rfl
@[simp] theorem startBuild_err : (startBuild s).err = s.err := rfl
@[simp] theorem startBuild_init : (startBuild s).init = s.init := rfl
@[simp] theorem startBuild_result : (startBuild s).result = s.result := rfl
@[simp] theorem startBuild_addrLo : (startBuild s).addrLo = s.addrLo := rfl
@[simp] theorem startBuild_addrHi : (startBuild s).addrHi = s.addrHi := rfl
@[simp] theorem startBuild_lenLo : (startBuild s).lenLo = s.lenLo := rfl
@[simp] theorem startBuild_lenHi : (startBuild s).lenHi = s.lenHi := rfl
@[simp] theorem startBuild_faultAddrLo : (startBuild s).faultAddrLo = s.faultAddrLo := rfl
@[simp] theorem startBuild_faultAddrHi : (startBuild s).faultAddrHi = s.faultAddrHi := rfl
@[simp] theorem startBuild_table : (startBuild s).table = s.table := rfl
@[simp] theorem startBuild_acc : (startBuild s).acc = s.acc := rfl
@[simp] theorem startBuild_ptr : (startBuild s).ptr = s.ptr := rfl
@[simp] theorem startBuild_rem : (startBuild s).rem = s.rem := rfl
@[simp] theorem startBuild_initLatch : (startBuild s).initLatch = s.initLatch := rfl
@[simp] theorem startBuild_stage : (startBuild s).stage = s.stage := rfl
@[simp] theorem startBuild_tgJ : (startBuild s).tgJ = 0#3 := rfl
@[simp] theorem startBuild_tgI : (startBuild s).tgI = 0#8 := rfl
@[simp] theorem startBuild_mem : (startBuild s).mem = s.mem := rfl
@[simp] theorem startBuild_bus : (startBuild s).bus = s.bus := rfl
@[simp] theorem startBuild_loads : (startBuild s).loads = s.loads := rfl
@[simp] theorem startBuild_raced : (startBuild s).raced = s.raced := rfl
@[simp] theorem startBuild_freeCount : (startBuild s).freeCount = s.freeCount := rfl

/-! ## endBuild -/

@[simp] theorem endBuild_cfg : (endBuild s).cfg = s.cfg := rfl
@[simp] theorem endBuild_phase : (endBuild s).phase = .idle := rfl
@[simp] theorem endBuild_tblReady : (endBuild s).tblReady = true := rfl
@[simp] theorem endBuild_err : (endBuild s).err = .ok := rfl
@[simp] theorem endBuild_init : (endBuild s).init = s.init := rfl
@[simp] theorem endBuild_result : (endBuild s).result = s.result := rfl
@[simp] theorem endBuild_addrLo : (endBuild s).addrLo = s.addrLo := rfl
@[simp] theorem endBuild_addrHi : (endBuild s).addrHi = s.addrHi := rfl
@[simp] theorem endBuild_lenLo : (endBuild s).lenLo = s.lenLo := rfl
@[simp] theorem endBuild_lenHi : (endBuild s).lenHi = s.lenHi := rfl
@[simp] theorem endBuild_faultAddrLo : (endBuild s).faultAddrLo = s.faultAddrLo := rfl
@[simp] theorem endBuild_faultAddrHi : (endBuild s).faultAddrHi = s.faultAddrHi := rfl
@[simp] theorem endBuild_table : (endBuild s).table = s.table := rfl
@[simp] theorem endBuild_acc : (endBuild s).acc = s.acc := rfl
@[simp] theorem endBuild_ptr : (endBuild s).ptr = s.ptr := rfl
@[simp] theorem endBuild_rem : (endBuild s).rem = s.rem := rfl
@[simp] theorem endBuild_initLatch : (endBuild s).initLatch = s.initLatch := rfl
@[simp] theorem endBuild_stage : (endBuild s).stage = s.stage := rfl
@[simp] theorem endBuild_tgJ : (endBuild s).tgJ = s.tgJ := rfl
@[simp] theorem endBuild_tgI : (endBuild s).tgI = s.tgI := rfl
@[simp] theorem endBuild_mem : (endBuild s).mem = s.mem := rfl
@[simp] theorem endBuild_bus : (endBuild s).bus = s.bus := rfl
@[simp] theorem endBuild_loads : (endBuild s).loads = s.loads := rfl
@[simp] theorem endBuild_raced : (endBuild s).raced = s.raced := rfl
@[simp] theorem endBuild_freeCount : (endBuild s).freeCount = s.freeCount := rfl

/-! ## consume -/

@[simp] theorem consume_cfg (w : ReadWidth) (x : Word) : (consume w x s).cfg = s.cfg := rfl
@[simp] theorem consume_phase (w : ReadWidth) (x : Word) : (consume w x s).phase = s.phase := rfl
@[simp] theorem consume_tblReady (w : ReadWidth) (x : Word) : (consume w x s).tblReady = s.tblReady := rfl
@[simp] theorem consume_err (w : ReadWidth) (x : Word) : (consume w x s).err = s.err := rfl
@[simp] theorem consume_init (w : ReadWidth) (x : Word) : (consume w x s).init = s.init := rfl
@[simp] theorem consume_result (w : ReadWidth) (x : Word) : (consume w x s).result = s.result := rfl
@[simp] theorem consume_addrLo (w : ReadWidth) (x : Word) : (consume w x s).addrLo = s.addrLo := rfl
@[simp] theorem consume_addrHi (w : ReadWidth) (x : Word) : (consume w x s).addrHi = s.addrHi := rfl
@[simp] theorem consume_lenLo (w : ReadWidth) (x : Word) : (consume w x s).lenLo = s.lenLo := rfl
@[simp] theorem consume_lenHi (w : ReadWidth) (x : Word) : (consume w x s).lenHi = s.lenHi := rfl
@[simp] theorem consume_faultAddrLo (w : ReadWidth) (x : Word) : (consume w x s).faultAddrLo = s.faultAddrLo := rfl
@[simp] theorem consume_faultAddrHi (w : ReadWidth) (x : Word) : (consume w x s).faultAddrHi = s.faultAddrHi := rfl
@[simp] theorem consume_table (w : ReadWidth) (x : Word) : (consume w x s).table = s.table := rfl
@[simp] theorem consume_acc (w : ReadWidth) (x : Word) : (consume w x s).acc = x := rfl
@[simp] theorem consume_ptr (w : ReadWidth) (x : Word) : (consume w x s).ptr = s.ptr + w.bytes := rfl
@[simp] theorem consume_rem (w : ReadWidth) (x : Word) : (consume w x s).rem = remAfter s.rem w.bytes := rfl
@[simp] theorem consume_initLatch (w : ReadWidth) (x : Word) : (consume w x s).initLatch = s.initLatch := rfl
@[simp] theorem consume_stage (w : ReadWidth) (x : Word) : (consume w x s).stage = s.stage := rfl
@[simp] theorem consume_tgJ (w : ReadWidth) (x : Word) : (consume w x s).tgJ = s.tgJ := rfl
@[simp] theorem consume_tgI (w : ReadWidth) (x : Word) : (consume w x s).tgI = s.tgI := rfl
@[simp] theorem consume_mem (w : ReadWidth) (x : Word) : (consume w x s).mem = s.mem := rfl
@[simp] theorem consume_bus (w : ReadWidth) (x : Word) : (consume w x s).bus = s.bus := rfl
@[simp] theorem consume_loads (w : ReadWidth) (x : Word) : (consume w x s).loads = s.loads := rfl
@[simp] theorem consume_raced (w : ReadWidth) (x : Word) : (consume w x s).raced = s.raced := rfl
@[simp] theorem consume_freeCount (w : ReadWidth) (x : Word) : (consume w x s).freeCount = s.freeCount := rfl

/-! ## startCalc -/

@[simp] theorem startCalc_cfg (h : Bool) (x : Word) : (startCalc h x s).cfg = s.cfg := rfl
@[simp] theorem startCalc_phase (h : Bool) (x : Word) : (startCalc h x s).phase = if h then .calcHw else .calcSw := rfl
@[simp] theorem startCalc_tblReady (h : Bool) (x : Word) : (startCalc h x s).tblReady = s.tblReady := rfl
@[simp] theorem startCalc_err (h : Bool) (x : Word) : (startCalc h x s).err = s.err := rfl
@[simp] theorem startCalc_init (h : Bool) (x : Word) : (startCalc h x s).init = s.init := rfl
@[simp] theorem startCalc_result (h : Bool) (x : Word) : (startCalc h x s).result = s.result := rfl
@[simp] theorem startCalc_addrLo (h : Bool) (x : Word) : (startCalc h x s).addrLo = s.addrLo := rfl
@[simp] theorem startCalc_addrHi (h : Bool) (x : Word) : (startCalc h x s).addrHi = s.addrHi := rfl
@[simp] theorem startCalc_lenLo (h : Bool) (x : Word) : (startCalc h x s).lenLo = s.lenLo := rfl
@[simp] theorem startCalc_lenHi (h : Bool) (x : Word) : (startCalc h x s).lenHi = s.lenHi := rfl
@[simp] theorem startCalc_faultAddrLo (h : Bool) (x : Word) : (startCalc h x s).faultAddrLo = s.faultAddrLo := rfl
@[simp] theorem startCalc_faultAddrHi (h : Bool) (x : Word) : (startCalc h x s).faultAddrHi = s.faultAddrHi := rfl
@[simp] theorem startCalc_table (h : Bool) (x : Word) : (startCalc h x s).table = s.table := rfl
@[simp] theorem startCalc_acc (h : Bool) (x : Word) : (startCalc h x s).acc = s.acc := rfl
@[simp] theorem startCalc_ptr (h : Bool) (x : Word) : (startCalc h x s).ptr = s.addr := rfl
@[simp] theorem startCalc_rem (h : Bool) (x : Word) : (startCalc h x s).rem = s.len := rfl
@[simp] theorem startCalc_initLatch (h : Bool) (x : Word) : (startCalc h x s).initLatch = x := rfl
@[simp] theorem startCalc_stage (h : Bool) (x : Word) : (startCalc h x s).stage = .first := rfl
@[simp] theorem startCalc_tgJ (h : Bool) (x : Word) : (startCalc h x s).tgJ = s.tgJ := rfl
@[simp] theorem startCalc_tgI (h : Bool) (x : Word) : (startCalc h x s).tgI = s.tgI := rfl
@[simp] theorem startCalc_mem (h : Bool) (x : Word) : (startCalc h x s).mem = s.mem := rfl
@[simp] theorem startCalc_bus (h : Bool) (x : Word) : (startCalc h x s).bus = s.bus := rfl
@[simp] theorem startCalc_loads (h : Bool) (x : Word) : (startCalc h x s).loads = s.loads := rfl
@[simp] theorem startCalc_raced (h : Bool) (x : Word) : (startCalc h x s).raced = false := rfl
@[simp] theorem startCalc_freeCount (h : Bool) (x : Word) : (startCalc h x s).freeCount = s.freeCount := rfl

/-! ## hostLoad -/

@[simp] theorem hostLoad_cfg (r : Reg) : (hostLoad r s).cfg = s.cfg := rfl
@[simp] theorem hostLoad_phase (r : Reg) : (hostLoad r s).phase = s.phase := rfl
@[simp] theorem hostLoad_tblReady (r : Reg) : (hostLoad r s).tblReady = s.tblReady := rfl
@[simp] theorem hostLoad_err (r : Reg) : (hostLoad r s).err = s.err := rfl
@[simp] theorem hostLoad_init (r : Reg) : (hostLoad r s).init = s.init := rfl
@[simp] theorem hostLoad_result (r : Reg) : (hostLoad r s).result = s.result := rfl
@[simp] theorem hostLoad_addrLo (r : Reg) : (hostLoad r s).addrLo = s.addrLo := rfl
@[simp] theorem hostLoad_addrHi (r : Reg) : (hostLoad r s).addrHi = s.addrHi := rfl
@[simp] theorem hostLoad_lenLo (r : Reg) : (hostLoad r s).lenLo = s.lenLo := rfl
@[simp] theorem hostLoad_lenHi (r : Reg) : (hostLoad r s).lenHi = s.lenHi := rfl
@[simp] theorem hostLoad_faultAddrLo (r : Reg) : (hostLoad r s).faultAddrLo = s.faultAddrLo := rfl
@[simp] theorem hostLoad_faultAddrHi (r : Reg) : (hostLoad r s).faultAddrHi = s.faultAddrHi := rfl
@[simp] theorem hostLoad_table (r : Reg) : (hostLoad r s).table = s.table := rfl
@[simp] theorem hostLoad_acc (r : Reg) : (hostLoad r s).acc = s.acc := rfl
@[simp] theorem hostLoad_ptr (r : Reg) : (hostLoad r s).ptr = s.ptr := rfl
@[simp] theorem hostLoad_rem (r : Reg) : (hostLoad r s).rem = s.rem := rfl
@[simp] theorem hostLoad_initLatch (r : Reg) : (hostLoad r s).initLatch = s.initLatch := rfl
@[simp] theorem hostLoad_stage (r : Reg) : (hostLoad r s).stage = s.stage := rfl
@[simp] theorem hostLoad_tgJ (r : Reg) : (hostLoad r s).tgJ = s.tgJ := rfl
@[simp] theorem hostLoad_tgI (r : Reg) : (hostLoad r s).tgI = s.tgI := rfl
@[simp] theorem hostLoad_mem (r : Reg) : (hostLoad r s).mem = s.mem := rfl
@[simp] theorem hostLoad_bus (r : Reg) : (hostLoad r s).bus = s.bus := rfl
@[simp] theorem hostLoad_loads (r : Reg) : (hostLoad r s).loads = s.loads ++ [readReg r s] := rfl
@[simp] theorem hostLoad_raced (r : Reg) : (hostLoad r s).raced = s.raced := rfl
@[simp] theorem hostLoad_freeCount (r : Reg) : (hostLoad r s).freeCount = s.freeCount := rfl

/-! ## hostPoll -/

@[simp] theorem hostPoll_cfg : (hostPoll s).cfg = s.cfg := by unfold hostPoll; split <;> rfl
@[simp] theorem hostPoll_phase : (hostPoll s).phase = s.phase := by unfold hostPoll; split <;> rfl
@[simp] theorem hostPoll_tblReady : (hostPoll s).tblReady = s.tblReady := by unfold hostPoll; split <;> rfl
@[simp] theorem hostPoll_err : (hostPoll s).err = s.err := by unfold hostPoll; split <;> rfl
@[simp] theorem hostPoll_init : (hostPoll s).init = s.init := by unfold hostPoll; split <;> rfl
@[simp] theorem hostPoll_result : (hostPoll s).result = s.result := by unfold hostPoll; split <;> rfl
@[simp] theorem hostPoll_addrLo : (hostPoll s).addrLo = s.addrLo := by unfold hostPoll; split <;> rfl
@[simp] theorem hostPoll_addrHi : (hostPoll s).addrHi = s.addrHi := by unfold hostPoll; split <;> rfl
@[simp] theorem hostPoll_lenLo : (hostPoll s).lenLo = s.lenLo := by unfold hostPoll; split <;> rfl
@[simp] theorem hostPoll_lenHi : (hostPoll s).lenHi = s.lenHi := by unfold hostPoll; split <;> rfl
@[simp] theorem hostPoll_faultAddrLo : (hostPoll s).faultAddrLo = s.faultAddrLo := by unfold hostPoll; split <;> rfl
@[simp] theorem hostPoll_faultAddrHi : (hostPoll s).faultAddrHi = s.faultAddrHi := by unfold hostPoll; split <;> rfl
@[simp] theorem hostPoll_table : (hostPoll s).table = s.table := by unfold hostPoll; split <;> rfl
@[simp] theorem hostPoll_acc : (hostPoll s).acc = s.acc := by unfold hostPoll; split <;> rfl
@[simp] theorem hostPoll_ptr : (hostPoll s).ptr = s.ptr := by unfold hostPoll; split <;> rfl
@[simp] theorem hostPoll_rem : (hostPoll s).rem = s.rem := by unfold hostPoll; split <;> rfl
@[simp] theorem hostPoll_initLatch : (hostPoll s).initLatch = s.initLatch := by unfold hostPoll; split <;> rfl
@[simp] theorem hostPoll_stage : (hostPoll s).stage = s.stage := by unfold hostPoll; split <;> rfl
@[simp] theorem hostPoll_tgJ : (hostPoll s).tgJ = s.tgJ := by unfold hostPoll; split <;> rfl
@[simp] theorem hostPoll_tgI : (hostPoll s).tgI = s.tgI := by unfold hostPoll; split <;> rfl
@[simp] theorem hostPoll_mem : (hostPoll s).mem = s.mem := by unfold hostPoll; split <;> rfl
@[simp] theorem hostPoll_raced : (hostPoll s).raced = s.raced := by unfold hostPoll; split <;> rfl
@[simp] theorem hostPoll_freeCount : (hostPoll s).freeCount = s.freeCount := by unfold hostPoll; split <;> rfl
@[simp] theorem hostPoll_loads : (hostPoll s).loads = s.loads ++ [readReg .status s] := by unfold hostPoll; split <;> rfl
theorem hostPoll_bus :
    (hostPoll s).bus = if (readReg .status s).getLsbD 0 then .engine :: .poll :: s.bus else s.bus := by
  unfold hostPoll; split <;> rfl

/-- `STATUS` [0] is `BUSY` (10_state.md R24). -/
theorem statusWord_bit0 : s.statusWord.getLsbD 0 = s.phase.busy := by
  unfold State.statusWord
  cases s.err <;> cases s.phase.fault <;> cases s.tblReady <;> cases s.phase.busy <;> rfl

/-- `STATUS` [7:4] is `ERR` (10_state.md R24). -/
theorem statusWord_err : s.statusWord.extractLsb' 4 4 = s.err.toBits := by
  unfold State.statusWord
  cases s.err <;> cases s.phase.fault <;> cases s.tblReady <;> cases s.phase.busy <;> rfl

/-! ## hostMemWrite -/

@[simp] theorem hostMemWrite_cfg (a : Nat) (b : Byte) : (hostMemWrite a b s).cfg = s.cfg := rfl
@[simp] theorem hostMemWrite_phase (a : Nat) (b : Byte) : (hostMemWrite a b s).phase = s.phase := rfl
@[simp] theorem hostMemWrite_tblReady (a : Nat) (b : Byte) : (hostMemWrite a b s).tblReady = s.tblReady := rfl
@[simp] theorem hostMemWrite_err (a : Nat) (b : Byte) : (hostMemWrite a b s).err = s.err := rfl
@[simp] theorem hostMemWrite_init (a : Nat) (b : Byte) : (hostMemWrite a b s).init = s.init := rfl
@[simp] theorem hostMemWrite_result (a : Nat) (b : Byte) : (hostMemWrite a b s).result = s.result := rfl
@[simp] theorem hostMemWrite_addrLo (a : Nat) (b : Byte) : (hostMemWrite a b s).addrLo = s.addrLo := rfl
@[simp] theorem hostMemWrite_addrHi (a : Nat) (b : Byte) : (hostMemWrite a b s).addrHi = s.addrHi := rfl
@[simp] theorem hostMemWrite_lenLo (a : Nat) (b : Byte) : (hostMemWrite a b s).lenLo = s.lenLo := rfl
@[simp] theorem hostMemWrite_lenHi (a : Nat) (b : Byte) : (hostMemWrite a b s).lenHi = s.lenHi := rfl
@[simp] theorem hostMemWrite_faultAddrLo (a : Nat) (b : Byte) : (hostMemWrite a b s).faultAddrLo = s.faultAddrLo := rfl
@[simp] theorem hostMemWrite_faultAddrHi (a : Nat) (b : Byte) : (hostMemWrite a b s).faultAddrHi = s.faultAddrHi := rfl
@[simp] theorem hostMemWrite_table (a : Nat) (b : Byte) : (hostMemWrite a b s).table = s.table := rfl
@[simp] theorem hostMemWrite_acc (a : Nat) (b : Byte) : (hostMemWrite a b s).acc = s.acc := rfl
@[simp] theorem hostMemWrite_ptr (a : Nat) (b : Byte) : (hostMemWrite a b s).ptr = s.ptr := rfl
@[simp] theorem hostMemWrite_rem (a : Nat) (b : Byte) : (hostMemWrite a b s).rem = s.rem := rfl
@[simp] theorem hostMemWrite_initLatch (a : Nat) (b : Byte) : (hostMemWrite a b s).initLatch = s.initLatch := rfl
@[simp] theorem hostMemWrite_stage (a : Nat) (b : Byte) : (hostMemWrite a b s).stage = s.stage := rfl
@[simp] theorem hostMemWrite_tgJ (a : Nat) (b : Byte) : (hostMemWrite a b s).tgJ = s.tgJ := rfl
@[simp] theorem hostMemWrite_tgI (a : Nat) (b : Byte) : (hostMemWrite a b s).tgI = s.tgI := rfl
@[simp] theorem hostMemWrite_mem (a : Nat) (b : Byte) : (hostMemWrite a b s).mem = s.mem.write a b := rfl
@[simp] theorem hostMemWrite_bus (a : Nat) (b : Byte) : (hostMemWrite a b s).bus = s.bus := rfl
@[simp] theorem hostMemWrite_loads (a : Nat) (b : Byte) : (hostMemWrite a b s).loads = s.loads := rfl
@[simp] theorem hostMemWrite_raced (a : Nat) (b : Byte) : (hostMemWrite a b s).raced = (s.raced || (s.phase.inCalc && inBuffer s a)) := rfl
@[simp] theorem hostMemWrite_freeCount (a : Nat) (b : Byte) : (hostMemWrite a b s).freeCount = s.freeCount := rfl

/-! ## enqueue -/

@[simp] theorem enqueue_cfg (e : BusEvent) : (s.enqueue e).cfg = s.cfg := rfl
@[simp] theorem enqueue_phase (e : BusEvent) : (s.enqueue e).phase = s.phase := rfl
@[simp] theorem enqueue_tblReady (e : BusEvent) : (s.enqueue e).tblReady = s.tblReady := rfl
@[simp] theorem enqueue_err (e : BusEvent) : (s.enqueue e).err = s.err := rfl
@[simp] theorem enqueue_init (e : BusEvent) : (s.enqueue e).init = s.init := rfl
@[simp] theorem enqueue_result (e : BusEvent) : (s.enqueue e).result = s.result := rfl
@[simp] theorem enqueue_addrLo (e : BusEvent) : (s.enqueue e).addrLo = s.addrLo := rfl
@[simp] theorem enqueue_addrHi (e : BusEvent) : (s.enqueue e).addrHi = s.addrHi := rfl
@[simp] theorem enqueue_lenLo (e : BusEvent) : (s.enqueue e).lenLo = s.lenLo := rfl
@[simp] theorem enqueue_lenHi (e : BusEvent) : (s.enqueue e).lenHi = s.lenHi := rfl
@[simp] theorem enqueue_faultAddrLo (e : BusEvent) : (s.enqueue e).faultAddrLo = s.faultAddrLo := rfl
@[simp] theorem enqueue_faultAddrHi (e : BusEvent) : (s.enqueue e).faultAddrHi = s.faultAddrHi := rfl
@[simp] theorem enqueue_table (e : BusEvent) : (s.enqueue e).table = s.table := rfl
@[simp] theorem enqueue_acc (e : BusEvent) : (s.enqueue e).acc = s.acc := rfl
@[simp] theorem enqueue_ptr (e : BusEvent) : (s.enqueue e).ptr = s.ptr := rfl
@[simp] theorem enqueue_rem (e : BusEvent) : (s.enqueue e).rem = s.rem := rfl
@[simp] theorem enqueue_initLatch (e : BusEvent) : (s.enqueue e).initLatch = s.initLatch := rfl
@[simp] theorem enqueue_stage (e : BusEvent) : (s.enqueue e).stage = s.stage := rfl
@[simp] theorem enqueue_tgJ (e : BusEvent) : (s.enqueue e).tgJ = s.tgJ := rfl
@[simp] theorem enqueue_tgI (e : BusEvent) : (s.enqueue e).tgI = s.tgI := rfl
@[simp] theorem enqueue_mem (e : BusEvent) : (s.enqueue e).mem = s.mem := rfl
@[simp] theorem enqueue_bus (e : BusEvent) : (s.enqueue e).bus = s.bus ++ [e] := rfl
@[simp] theorem enqueue_loads (e : BusEvent) : (s.enqueue e).loads = s.loads := rfl
@[simp] theorem enqueue_raced (e : BusEvent) : (s.enqueue e).raced = s.raced := rfl
@[simp] theorem enqueue_freeCount (e : BusEvent) : (s.enqueue e).freeCount = s.freeCount := rfl

/-! ## raiseFault -/

@[simp] theorem raiseFault_cfg (c : ErrCode) : (raiseFault c s).cfg = s.cfg := by unfold raiseFault; split <;> rfl
@[simp] theorem raiseFault_phase (c : ErrCode) : (raiseFault c s).phase = .faulted := by unfold raiseFault; split <;> rfl
@[simp] theorem raiseFault_tblReady (c : ErrCode) : (raiseFault c s).tblReady = s.tblReady := by unfold raiseFault; split <;> rfl
@[simp] theorem raiseFault_err (c : ErrCode) : (raiseFault c s).err = c := by unfold raiseFault; split <;> rfl
@[simp] theorem raiseFault_init (c : ErrCode) : (raiseFault c s).init = s.init := by unfold raiseFault; split <;> rfl
@[simp] theorem raiseFault_result (c : ErrCode) : (raiseFault c s).result = s.result := by unfold raiseFault; split <;> rfl
@[simp] theorem raiseFault_addrLo (c : ErrCode) : (raiseFault c s).addrLo = s.addrLo := by unfold raiseFault; split <;> rfl
@[simp] theorem raiseFault_addrHi (c : ErrCode) : (raiseFault c s).addrHi = s.addrHi := by unfold raiseFault; split <;> rfl
@[simp] theorem raiseFault_lenLo (c : ErrCode) : (raiseFault c s).lenLo = s.lenLo := by unfold raiseFault; split <;> rfl
@[simp] theorem raiseFault_lenHi (c : ErrCode) : (raiseFault c s).lenHi = s.lenHi := by unfold raiseFault; split <;> rfl
@[simp] theorem raiseFault_table (c : ErrCode) : (raiseFault c s).table = s.table := by unfold raiseFault; split <;> rfl
@[simp] theorem raiseFault_acc (c : ErrCode) : (raiseFault c s).acc = s.acc := by unfold raiseFault; split <;> rfl
@[simp] theorem raiseFault_ptr (c : ErrCode) : (raiseFault c s).ptr = s.ptr := by unfold raiseFault; split <;> rfl
@[simp] theorem raiseFault_rem (c : ErrCode) : (raiseFault c s).rem = s.rem := by unfold raiseFault; split <;> rfl
@[simp] theorem raiseFault_initLatch (c : ErrCode) : (raiseFault c s).initLatch = s.initLatch := by unfold raiseFault; split <;> rfl
@[simp] theorem raiseFault_stage (c : ErrCode) : (raiseFault c s).stage = s.stage := by unfold raiseFault; split <;> rfl
@[simp] theorem raiseFault_tgJ (c : ErrCode) : (raiseFault c s).tgJ = s.tgJ := by unfold raiseFault; split <;> rfl
@[simp] theorem raiseFault_tgI (c : ErrCode) : (raiseFault c s).tgI = s.tgI := by unfold raiseFault; split <;> rfl
@[simp] theorem raiseFault_mem (c : ErrCode) : (raiseFault c s).mem = s.mem := by unfold raiseFault; split <;> rfl
@[simp] theorem raiseFault_bus (c : ErrCode) : (raiseFault c s).bus = s.bus := by unfold raiseFault; split <;> rfl
@[simp] theorem raiseFault_loads (c : ErrCode) : (raiseFault c s).loads = s.loads := by unfold raiseFault; split <;> rfl
@[simp] theorem raiseFault_raced (c : ErrCode) : (raiseFault c s).raced = s.raced := by unfold raiseFault; split <;> rfl
@[simp] theorem raiseFault_freeCount (c : ErrCode) : (raiseFault c s).freeCount = s.freeCount := by unfold raiseFault; split <;> rfl

/-! ## writeAddrHi -/

@[simp] theorem writeAddrHi_cfg (v : Word) : (writeAddrHi v s).cfg = s.cfg := by unfold writeAddrHi; split <;> rfl
@[simp] theorem writeAddrHi_phase (v : Word) : (writeAddrHi v s).phase = s.phase := by unfold writeAddrHi; split <;> rfl
@[simp] theorem writeAddrHi_tblReady (v : Word) : (writeAddrHi v s).tblReady = s.tblReady := by unfold writeAddrHi; split <;> rfl
@[simp] theorem writeAddrHi_err (v : Word) : (writeAddrHi v s).err = s.err := by unfold writeAddrHi; split <;> rfl
@[simp] theorem writeAddrHi_init (v : Word) : (writeAddrHi v s).init = s.init := by unfold writeAddrHi; split <;> rfl
@[simp] theorem writeAddrHi_result (v : Word) : (writeAddrHi v s).result = s.result := by unfold writeAddrHi; split <;> rfl
@[simp] theorem writeAddrHi_addrLo (v : Word) : (writeAddrHi v s).addrLo = s.addrLo := by unfold writeAddrHi; split <;> rfl
@[simp] theorem writeAddrHi_lenLo (v : Word) : (writeAddrHi v s).lenLo = s.lenLo := by unfold writeAddrHi; split <;> rfl
@[simp] theorem writeAddrHi_lenHi (v : Word) : (writeAddrHi v s).lenHi = s.lenHi := by unfold writeAddrHi; split <;> rfl
@[simp] theorem writeAddrHi_faultAddrLo (v : Word) : (writeAddrHi v s).faultAddrLo = s.faultAddrLo := by unfold writeAddrHi; split <;> rfl
@[simp] theorem writeAddrHi_faultAddrHi (v : Word) : (writeAddrHi v s).faultAddrHi = s.faultAddrHi := by unfold writeAddrHi; split <;> rfl
@[simp] theorem writeAddrHi_table (v : Word) : (writeAddrHi v s).table = s.table := by unfold writeAddrHi; split <;> rfl
@[simp] theorem writeAddrHi_acc (v : Word) : (writeAddrHi v s).acc = s.acc := by unfold writeAddrHi; split <;> rfl
@[simp] theorem writeAddrHi_ptr (v : Word) : (writeAddrHi v s).ptr = s.ptr := by unfold writeAddrHi; split <;> rfl
@[simp] theorem writeAddrHi_rem (v : Word) : (writeAddrHi v s).rem = s.rem := by unfold writeAddrHi; split <;> rfl
@[simp] theorem writeAddrHi_initLatch (v : Word) : (writeAddrHi v s).initLatch = s.initLatch := by unfold writeAddrHi; split <;> rfl
@[simp] theorem writeAddrHi_stage (v : Word) : (writeAddrHi v s).stage = s.stage := by unfold writeAddrHi; split <;> rfl
@[simp] theorem writeAddrHi_tgJ (v : Word) : (writeAddrHi v s).tgJ = s.tgJ := by unfold writeAddrHi; split <;> rfl
@[simp] theorem writeAddrHi_tgI (v : Word) : (writeAddrHi v s).tgI = s.tgI := by unfold writeAddrHi; split <;> rfl
@[simp] theorem writeAddrHi_mem (v : Word) : (writeAddrHi v s).mem = s.mem := by unfold writeAddrHi; split <;> rfl
@[simp] theorem writeAddrHi_bus (v : Word) : (writeAddrHi v s).bus = s.bus := by unfold writeAddrHi; split <;> rfl
@[simp] theorem writeAddrHi_loads (v : Word) : (writeAddrHi v s).loads = s.loads := by unfold writeAddrHi; split <;> rfl
@[simp] theorem writeAddrHi_raced (v : Word) : (writeAddrHi v s).raced = s.raced := by unfold writeAddrHi; split <;> rfl
@[simp] theorem writeAddrHi_freeCount (v : Word) : (writeAddrHi v s).freeCount = s.freeCount := by unfold writeAddrHi; split <;> rfl

/-! ## writeLenHi -/

@[simp] theorem writeLenHi_cfg (v : Word) : (writeLenHi v s).cfg = s.cfg := by unfold writeLenHi; split <;> rfl
@[simp] theorem writeLenHi_phase (v : Word) : (writeLenHi v s).phase = s.phase := by unfold writeLenHi; split <;> rfl
@[simp] theorem writeLenHi_tblReady (v : Word) : (writeLenHi v s).tblReady = s.tblReady := by unfold writeLenHi; split <;> rfl
@[simp] theorem writeLenHi_err (v : Word) : (writeLenHi v s).err = s.err := by unfold writeLenHi; split <;> rfl
@[simp] theorem writeLenHi_init (v : Word) : (writeLenHi v s).init = s.init := by unfold writeLenHi; split <;> rfl
@[simp] theorem writeLenHi_result (v : Word) : (writeLenHi v s).result = s.result := by unfold writeLenHi; split <;> rfl
@[simp] theorem writeLenHi_addrLo (v : Word) : (writeLenHi v s).addrLo = s.addrLo := by unfold writeLenHi; split <;> rfl
@[simp] theorem writeLenHi_addrHi (v : Word) : (writeLenHi v s).addrHi = s.addrHi := by unfold writeLenHi; split <;> rfl
@[simp] theorem writeLenHi_lenLo (v : Word) : (writeLenHi v s).lenLo = s.lenLo := by unfold writeLenHi; split <;> rfl
@[simp] theorem writeLenHi_faultAddrLo (v : Word) : (writeLenHi v s).faultAddrLo = s.faultAddrLo := by unfold writeLenHi; split <;> rfl
@[simp] theorem writeLenHi_faultAddrHi (v : Word) : (writeLenHi v s).faultAddrHi = s.faultAddrHi := by unfold writeLenHi; split <;> rfl
@[simp] theorem writeLenHi_table (v : Word) : (writeLenHi v s).table = s.table := by unfold writeLenHi; split <;> rfl
@[simp] theorem writeLenHi_acc (v : Word) : (writeLenHi v s).acc = s.acc := by unfold writeLenHi; split <;> rfl
@[simp] theorem writeLenHi_ptr (v : Word) : (writeLenHi v s).ptr = s.ptr := by unfold writeLenHi; split <;> rfl
@[simp] theorem writeLenHi_rem (v : Word) : (writeLenHi v s).rem = s.rem := by unfold writeLenHi; split <;> rfl
@[simp] theorem writeLenHi_initLatch (v : Word) : (writeLenHi v s).initLatch = s.initLatch := by unfold writeLenHi; split <;> rfl
@[simp] theorem writeLenHi_stage (v : Word) : (writeLenHi v s).stage = s.stage := by unfold writeLenHi; split <;> rfl
@[simp] theorem writeLenHi_tgJ (v : Word) : (writeLenHi v s).tgJ = s.tgJ := by unfold writeLenHi; split <;> rfl
@[simp] theorem writeLenHi_tgI (v : Word) : (writeLenHi v s).tgI = s.tgI := by unfold writeLenHi; split <;> rfl
@[simp] theorem writeLenHi_mem (v : Word) : (writeLenHi v s).mem = s.mem := by unfold writeLenHi; split <;> rfl
@[simp] theorem writeLenHi_bus (v : Word) : (writeLenHi v s).bus = s.bus := by unfold writeLenHi; split <;> rfl
@[simp] theorem writeLenHi_loads (v : Word) : (writeLenHi v s).loads = s.loads := by unfold writeLenHi; split <;> rfl
@[simp] theorem writeLenHi_raced (v : Word) : (writeLenHi v s).raced = s.raced := by unfold writeLenHi; split <;> rfl
@[simp] theorem writeLenHi_freeCount (v : Word) : (writeLenHi v s).freeCount = s.freeCount := by unfold writeLenHi; split <;> rfl

/-- Only MEMORY_FAULT records an address (60_exceptions.md R225, R226). -/
theorem raiseFault_memoryFault :
    raiseFault .memoryFault s = recordFaultAddr { s with err := .memoryFault, phase := .faulted } := rfl

theorem raiseFault_hwPathUnsupported :
    raiseFault .hwPathUnsupported s = { s with err := .hwPathUnsupported, phase := .faulted } := rfl

/-! ## blockReset -/

@[simp] theorem blockReset_cfg : (blockReset s).cfg = s.cfg := rfl
@[simp] theorem blockReset_phase : (blockReset s).phase = (State.resetOn s.cfg).phase := rfl
@[simp] theorem blockReset_tblReady : (blockReset s).tblReady = (State.resetOn s.cfg).tblReady := rfl
@[simp] theorem blockReset_err : (blockReset s).err = (State.resetOn s.cfg).err := rfl
@[simp] theorem blockReset_init : (blockReset s).init = (State.resetOn s.cfg).init := rfl
@[simp] theorem blockReset_result : (blockReset s).result = (State.resetOn s.cfg).result := rfl
@[simp] theorem blockReset_addrLo : (blockReset s).addrLo = (State.resetOn s.cfg).addrLo := rfl
@[simp] theorem blockReset_addrHi : (blockReset s).addrHi = (State.resetOn s.cfg).addrHi := rfl
@[simp] theorem blockReset_lenLo : (blockReset s).lenLo = (State.resetOn s.cfg).lenLo := rfl
@[simp] theorem blockReset_lenHi : (blockReset s).lenHi = (State.resetOn s.cfg).lenHi := rfl
@[simp] theorem blockReset_faultAddrLo : (blockReset s).faultAddrLo = (State.resetOn s.cfg).faultAddrLo := rfl
@[simp] theorem blockReset_faultAddrHi : (blockReset s).faultAddrHi = (State.resetOn s.cfg).faultAddrHi := rfl
@[simp] theorem blockReset_table : (blockReset s).table = unbuiltTable s.freeCount := rfl
@[simp] theorem blockReset_acc : (blockReset s).acc = (State.resetOn s.cfg).acc := rfl
@[simp] theorem blockReset_ptr : (blockReset s).ptr = (State.resetOn s.cfg).ptr := rfl
@[simp] theorem blockReset_rem : (blockReset s).rem = (State.resetOn s.cfg).rem := rfl
@[simp] theorem blockReset_initLatch : (blockReset s).initLatch = (State.resetOn s.cfg).initLatch := rfl
@[simp] theorem blockReset_stage : (blockReset s).stage = (State.resetOn s.cfg).stage := rfl
@[simp] theorem blockReset_tgJ : (blockReset s).tgJ = (State.resetOn s.cfg).tgJ := rfl
@[simp] theorem blockReset_tgI : (blockReset s).tgI = (State.resetOn s.cfg).tgI := rfl
@[simp] theorem blockReset_mem : (blockReset s).mem = s.mem := rfl
@[simp] theorem blockReset_bus : (blockReset s).bus = s.bus := rfl
@[simp] theorem blockReset_loads : (blockReset s).loads = s.loads := rfl
@[simp] theorem blockReset_raced : (blockReset s).raced = (State.resetOn s.cfg).raced := rfl
@[simp] theorem blockReset_freeCount : (blockReset s).freeCount = s.freeCount + 1 := rfl

end Sys2Proof.Machine
end

