-- ==== Sys2Proof/Laws/Exec.lean ====
section
/-! SUPPORT. What the shared operations can do: a buffer micro-op, the acceptance of a CALC, the counters of a build. -/

namespace Sys2Proof.Machine

/-! ## Buffer micro-ops -/

theorem operandsFit_iff {w : ReadWidth} {s : State} :
    operandsFit w s = true ↔ w.bytes ≤ s.rem ∧ s.ptr % w.bytes = 0 := by
  simp [operandsFit]

theorem remAfter_of_le {rem n : Nat} (h : n ≤ rem) : remAfter rem n = rem - n := if_pos h

theorem remAfter_of_lt {rem n : Nat} (h : rem < n) : remAfter rem n = Config.remBelowZero rem n := if_neg (by omega)

/-- An admitted read. -/
theorem bufferMicroOp_admitted {w : ReadWidth} {s : State} (x : Word) (ha : memAdmit s.cfg s.ptr w = true) :
    bufferMicroOp w x s = consume w x s := if_pos ha

/-- An unadmitted read raises MEMORY_FAULT (60_exceptions.md R224). -/
theorem bufferMicroOp_unadmitted {w : ReadWidth} {s : State} (x : Word) (ha : memAdmit s.cfg s.ptr w = false) :
    bufferMicroOp w x s = raiseFault .memoryFault s := by
  simp [bufferMicroOp, ha]

/-- Everything a buffer micro-op can do. -/
theorem bufferMicroOp_cases (w : ReadWidth) (x : Word) (s : State) :
    (memAdmit s.cfg s.ptr w = true ∧ bufferMicroOp w x s = consume w x s) ∨
    (memAdmit s.cfg s.ptr w = false ∧ bufferMicroOp w x s = raiseFault .memoryFault s) := by
  unfold bufferMicroOp
  cases memAdmit s.cfg s.ptr w <;> simp

/-- A buffer micro-op keeps what neither folding nor a fault writes. -/
theorem bufferMicroOp_keeps {α : Type} (g : State → α) (hc : ∀ w x s, g (consume w x s) = g s)
    (hr : ∀ s, g (raiseFault .memoryFault s) = g s) (w : ReadWidth) (x : Word) (s : State) :
    g (bufferMicroOp w x s) = g s := by
  rcases bufferMicroOp_cases w x s with ⟨-, e⟩ | ⟨-, e⟩ <;> rw [e]
  · exact hc ..
  · exact hr s

/-- The six buffer micro-ops differ only in the accumulator they give. -/
theorem exec_buffer_form {i : Instr} {w : ReadWidth} (h : readWidth i = some w) (s : State) :
    ∃ x, exec i s = .next (bufferMicroOp w x s) := by
  cases i <;> simp only [readWidth, Option.some.injEq, reduceCtorEq] at h <;> subst h <;> exact ⟨_, rfl⟩

/-! ## Acceptance of a CALC -/

/-- Everything the acceptance of a CALC can do, in check order (45_dispatch.md R213). -/
theorem acceptCalc_cases (h : Bool) (f : FlagKind) (d : DataKind) (k : InitKind) (s : State) :
    (badArguments f d k = true ∧ acceptCalc h f d k s = complete .invalidArgument (accept s)) ∨
    (badArguments f d k = false ∧ bufferWraps s = true ∧
      acceptCalc h f d k s = complete .invalidArgument (accept s)) ∨
    (badArguments f d k = false ∧ bufferWraps s = false ∧ h = true ∧ hwPresent s.cfg = false ∧
      acceptCalc h f d k s = raiseFault .hwPathUnsupported (accept s)) ∨
    (badArguments f d k = false ∧ bufferWraps s = false ∧ (h = true → hwPresent s.cfg = true) ∧ s.len = 0 ∧
      acceptCalc h f d k s = complete .ok { accept s with result := initialOf k s }) ∨
    (badArguments f d k = false ∧ bufferWraps s = false ∧ (h = true → hwPresent s.cfg = true) ∧ 0 < s.len ∧
      acceptCalc h f d k s = startCalc h (initialOf k s) (accept s)) := by
  unfold acceptCalc
  by_cases h1 : badArguments f d k = true
  · exact .inl ⟨h1, if_pos h1⟩
  refine .inr ?_
  rw [if_neg h1]
  rw [Bool.not_eq_true] at h1
  by_cases h2 : bufferWraps s = true
  · exact .inl ⟨h1, h2, if_pos h2⟩
  refine .inr ?_
  rw [if_neg h2]
  rw [Bool.not_eq_true] at h2
  by_cases h3 : (h && !hwPresent s.cfg) = true
  · rw [if_pos h3]
    simp only [Bool.and_eq_true, Bool.not_eq_true'] at h3
    exact .inl ⟨h1, h2, h3.1, h3.2, rfl⟩
  refine .inr ?_
  rw [if_neg h3]
  have h3' : h = true → hwPresent s.cfg = true := by rintro rfl; simpa using h3
  by_cases h4 : s.len = 0
  · exact .inl ⟨h1, h2, h3', h4, if_pos h4⟩
  · exact .inr ⟨h1, h2, h3', Nat.pos_of_ne_zero h4, if_neg h4⟩

/-! ## The counters of a build -/

/-- Everything the sequencer can do after a table micro-op (42_table_generator.md R134, R136). -/
theorem advanceBuild_cases (j : BitVec 3) (i : BitVec 8) (s : State) :
    (i ≠ 255#8 ∧ advanceBuild j i s = { s with tgI := i + 1#8 }) ∨
    (i = 255#8 ∧ j ≠ 7#3 ∧ advanceBuild j i s = { s with tgJ := j + 1#3, tgI := 0#8 }) ∨
    (i = 255#8 ∧ j = 7#3 ∧ advanceBuild j i s = endBuild s) := by
  unfold advanceBuild
  by_cases hi : i = 255#8
  · by_cases hj : j = 7#3
    · exact .inr (.inr ⟨hi, hj, by rw [if_pos hi, if_pos hj]⟩)
    · exact .inr (.inl ⟨hi, hj, by rw [if_pos hi, if_neg hj]⟩)
  · exact .inl ⟨hi, if_neg hi⟩

end Sys2Proof.Machine
end

