-- ==== Sys2Proof/Laws/Sequencer.lean ====
section
/-! SUPPORT. Who takes the next step and what a step can do: the schedules pick micro-ops whose operands are as their
rules state them, and one inversion lemma for `step`. -/

namespace Sys2Proof.Machine

/-! ## The schedules -/

/-- Everything the software path's schedule picks (43_software_engine.md R151). -/
theorem swNext_cases (ptr rem : Nat) :
    (rem = 0 ∧ swNext ptr rem = .uFinal) ∨
    (0 < rem ∧ (ptr % 8 ≠ 0 ∨ rem < 8) ∧ swNext ptr rem = .uSwByte) ∨
    (8 ≤ rem ∧ ptr % 8 = 0 ∧ swNext ptr rem = .uSwSlice8) := by
  unfold swNext
  by_cases h : rem = 0
  · exact .inl ⟨h, if_pos h⟩
  · rw [if_neg h]
    by_cases h' : ptr % 8 ≠ 0 ∨ rem < 8
    · exact .inr (.inl ⟨by omega, h', if_pos h'⟩)
    · exact .inr (.inr ⟨by omega, by omega, if_neg h'⟩)

/-- The chunk the hardware path's schedule picks fits and is aligned (44_hardware_engine.md R185). -/
theorem hwWidth_fits {ptr rem : Nat} (h : 0 < rem) :
    (hwWidth ptr rem).bytes ≤ rem ∧ ptr % (hwWidth ptr rem).bytes = 0 := by
  unfold hwWidth
  split
  · exact ‹_›
  · split
    · exact ‹_›
    · split
      · exact ‹_›
      · exact ⟨h, Nat.mod_one ptr⟩

/-! ## Steps -/

theorem step_run {s t : State} {i : Instr} (h : turn s = .run i t) : step s = finish i (exec i t) := by
  unfold step; rw [h]

theorem step_quiet {s t : State} (h : turn s = .quiet t) : step s = .next t := by
  unfold step; rw [h]

theorem finish_next_iff {i : Instr} {o : Host.Outcome State Fault Refusal} {u : State} :
    finish i o = .next u ↔ ∃ t, o = .next t ∧ u = advance i t := by
  cases o <;> simp [finish, eq_comm]

/-- Everything a step that answers a next state can be: nothing ran, or an instruction ran and the sequencer moved
on. -/
theorem step_next_cases {s u : State} (h : step s = .next u) :
    turn s = .quiet u ∨ ∃ i t v, turn s = .run i t ∧ exec i t = .next v ∧ u = advance i v := by
  unfold step at h
  split at h
  · obtain ⟨v, hv, rfl⟩ := finish_next_iff.1 h
    exact .inr ⟨_, _, v, ‹_›, hv, rfl⟩
  · cases h; exact .inl ‹_›
  · cases h
  · cases h

/-- The sequencer's turn. -/
theorem engineTurn_cases (s : State) :
    (nextUop s = none ∧ engineTurn s = .quiet s) ∨ ∃ i, nextUop s = some i ∧ engineTurn s = .run i s := by
  unfold engineTurn
  cases h : nextUop s with
  | none => exact .inl ⟨rfl, rfl⟩
  | some i => exact .inr ⟨i, rfl, rfl⟩

/-- The sequencer has a micro-op to run exactly while `BUSY` (10_state.md R52). -/
theorem nextUop_isSome (s : State) : (nextUop s).isSome = s.phase.busy := by
  unfold nextUop
  cases h : s.phase <;> rfl

/-- Everything a running instruction can be: a micro-op on the sequencer's turn, or an accepted command on an idle
block. -/
theorem turn_run_cases {s t : State} {i : Instr} (h : turn s = .run i t) :
    (nextUop t = some i ∧ (t = s ∨ ∃ rest, s.bus = .engine :: rest ∧ t = { s with bus := rest })) ∨
    (∃ v rest, s.bus = .store .cmd v :: rest ∧ decodeCommand v = .ok i ∧ s.phase = .idle ∧
      t = { s with bus := rest }) := by
  have eng : ∀ u : State, engineTurn u = .run i t → nextUop t = some i ∧ t = u := by
    intro u hu
    rcases engineTurn_cases u with ⟨-, h2⟩ | ⟨k, h1, h2⟩ <;> rw [h2] at hu <;> cases hu
    exact ⟨h1, rfl⟩
  unfold turn at h
  split at h
  · obtain ⟨h1, rfl⟩ := eng _ h; exact .inl ⟨h1, .inl rfl⟩
  · obtain ⟨h1, rfl⟩ := eng _ h; exact .inl ⟨h1, .inr ⟨_, ‹_›, rfl⟩⟩
  · cases h
  · cases h
  · cases h
  · split at h <;> cases h
  · cases h
  · rename_i r v rest hbus
    split at h
    · cases h
    · split at h
      · obtain ⟨h1, rfl⟩ := eng _ h; exact .inl ⟨h1, .inl rfl⟩
      · have hidle : s.phase = .idle := by cases hp : s.phase <;> simp_all [Phase.fault, Phase.busy]
        cases r <;> simp only [storeTurn, commandTurn] at h <;> try cases h
        split at h <;> cases h
        exact .inr ⟨v, rest, hbus, ‹_›, hidle, rfl⟩

/-- Everything the sequencer's next micro-op can be, with what the schedule guarantees of its operands. -/
theorem nextUop_fits {s : State} {i : Instr} (h : nextUop s = some i) :
    (∃ x, i = .uTgBase x ∧ s.tgJ = 0#3 ∧ x = s.tgI) ∨
    (∃ j x, i = .uTgSlice j x ∧ j = s.tgJ ∧ x = s.tgI ∧ j ≠ 0#3) ∨
    (i = .uInit ∧ s.stage = .first) ∨ (i = .uFinal ∧ s.stage = .loop ∧ s.rem = 0) ∨
    (s.stage = .loop ∧ i = .uSwByte ∧ operandsFit .one s = true) ∨
    (s.stage = .loop ∧ i = .uSwSlice8 ∧ operandsFit .eight s = true) ∨
    (s.stage = .loop ∧ ∃ w, i = hwFoldOf w ∧ operandsFit w s = true) := by
  have build : some (buildNext s) = some i → (∃ x, i = .uTgBase x ∧ s.tgJ = 0#3 ∧ x = s.tgI) ∨
      (∃ j x, i = .uTgSlice j x ∧ j = s.tgJ ∧ x = s.tgI ∧ j ≠ 0#3) := by
    intro hi
    unfold buildNext at hi
    split at hi
    · cases hi; exact .inl ⟨_, rfl, ‹_›, rfl⟩
    · cases hi; exact .inr ⟨_, _, rfl, rfl, rfl, ‹_›⟩
  unfold nextUop at h
  split at h
  · rcases build h with h | h
    · exact .inl h
    · exact .inr (.inl h)
  · rcases build h with h | h
    · exact .inl h
    · exact .inr (.inl h)
  · cases h
    unfold calcNext
    cases hs : s.stage with
    | first => exact .inr (.inr (.inl ⟨rfl, rfl⟩))
    | loop =>
      rcases swNext_cases s.ptr s.rem with ⟨h1, h2⟩ | ⟨h1, -, h2⟩ | ⟨h1, h3, h2⟩
      · exact .inr (.inr (.inr (.inl ⟨h2, rfl, h1⟩)))
      · exact .inr (.inr (.inr (.inr (.inl ⟨rfl, h2, operandsFit_iff.2 ⟨h1, Nat.mod_one _⟩⟩))))
      · exact .inr (.inr (.inr (.inr (.inr (.inl ⟨rfl, h2, operandsFit_iff.2 ⟨h1, h3⟩⟩)))))
  · cases h
    unfold calcNext
    cases hs : s.stage with
    | first => exact .inr (.inr (.inl ⟨rfl, rfl⟩))
    | loop =>
      unfold hwNext
      by_cases h0 : s.rem = 0
      · exact .inr (.inr (.inr (.inl ⟨if_pos h0, rfl, h0⟩)))
      · exact .inr (.inr (.inr (.inr (.inr (.inr ⟨rfl, hwWidth s.ptr s.rem, if_neg h0,
          operandsFit_iff.2 (hwWidth_fits (by omega))⟩)))))
  · cases h
  · cases h

end Sys2Proof.Machine
end

