-- ==== Sys2Proof/Laws/Frame.lean ====
section
/-! SUPPORT. What every instruction, every move of the sequencer and every host store keeps; and what a step is where
no instruction runs, on the sequencer's turn, and at a command issue. -/

namespace Sys2Proof.Machine

/-! ## Instructions -/

/-- What an acceptance of a CALC keeps. -/
theorem acceptCalc_keeps {α : Type} (g : State → α) (h1 : ∀ c s, g (complete c (accept s)) = g s)
    (h2 : ∀ s, g (raiseFault .hwPathUnsupported (accept s)) = g s)
    (h3 : ∀ s r, g (complete .ok { accept s with result := r }) = g s)
    (h4 : ∀ hw x s, g (startCalc hw x (accept s)) = g s) (hw : Bool) (f : FlagKind) (d : DataKind) (k : InitKind)
    (s : State) : g (acceptCalc hw f d k s) = g s := by
  rcases acceptCalc_cases hw f d k s with ⟨-, e⟩ | ⟨-, -, e⟩ | ⟨-, -, -, -, e⟩ | ⟨-, -, -, -, e⟩ | ⟨-, -, -, -, e⟩ <;>
    rw [e]
  · exact h1 ..
  · exact h1 ..
  · exact h2 ..
  · exact h3 ..
  · exact h4 ..

/-- What every instruction keeps, from what each of the state updates it is made of keeps. -/
theorem exec_keeps {α : Type} (g : State → α)
    (h1 : ∀ c s, g (complete c (accept s)) = g s) (h2 : ∀ s, g (raiseFault .hwPathUnsupported (accept s)) = g s)
    (h3 : ∀ s r, g (complete .ok { accept s with result := r }) = g s)
    (h4 : ∀ hw x s, g (startCalc hw x (accept s)) = g s) (h5 : ∀ s, g (startBuild (accept s)) = g s)
    (h6 : ∀ s t, g { s with table := t } = g s) (h7 : ∀ s a, g { s with acc := a } = g s)
    (h8 : ∀ w x s, g (consume w x s) = g s) (h9 : ∀ s, g (raiseFault .memoryFault s) = g s)
    (h10 : ∀ s, g (complete .ok (freeResult s)) = g s) (h11 : ∀ s r, g (complete .ok { s with result := r }) = g s)
    {i : Instr} {s t : State} (h : exec i s = .next t) : g t = g s := by
  have hb := bufferMicroOp_keeps g h8 h9
  have ha := acceptCalc_keeps g h1 h2 h3 h4
  cases i <;> simp only [exec] at h
  case featq => cases h; exact h3 ..
  case tblgen => cases h; exact h5 _
  case calcSw => cases h; exact ha ..
  case calcHw => cases h; exact ha ..
  case uTgBase => cases h; exact h6 ..
  case uTgSlice => unfold execUTgSlice at h; split at h <;> cases h; exact h6 ..
  case uInit => cases h; exact h7 ..
  case uFinal =>
    cases h
    split
    · exact h10 ..
    · exact h11 ..
  all_goals cases h; exact hb ..

theorem exec_bus {i : Instr} {s t : State} (h : exec i s = .next t) : t.bus = s.bus :=
  exec_keeps State.bus (by simp) (by simp) (by simp) (by simp) (by simp) (by simp) (by simp) (by simp) (by simp)
    (by simp) (by simp) h

theorem exec_mem {i : Instr} {s t : State} (h : exec i s = .next t) : t.mem = s.mem :=
  exec_keeps State.mem (by simp) (by simp) (by simp) (by simp) (by simp) (by simp) (by simp) (by simp) (by simp)
    (by simp) (by simp) h

theorem exec_cfg {i : Instr} {s t : State} (h : exec i s = .next t) : t.cfg = s.cfg :=
  exec_keeps State.cfg (by simp) (by simp) (by simp) (by simp) (by simp) (by simp) (by simp) (by simp) (by simp)
    (by simp) (by simp) h

theorem exec_tblReady {i : Instr} {s t : State} (h : exec i s = .next t) : t.tblReady = s.tblReady :=
  exec_keeps State.tblReady (by simp) (by simp) (by simp) (by simp) (by simp) (by simp) (by simp) (by simp) (by simp)
    (by simp) (by simp) h

theorem exec_loads {i : Instr} {s t : State} (h : exec i s = .next t) : t.loads = s.loads :=
  exec_keeps State.loads (by simp) (by simp) (by simp) (by simp) (by simp) (by simp) (by simp) (by simp) (by simp)
    (by simp) (by simp) h

/-- A command always answers a next state. -/
theorem exec_command_next {i : Instr} {s : State} (h : i.isCommand = true) : ∃ t, exec i s = .next t := by
  cases i <;> simp [Instr.isCommand] at h <;> exact ⟨_, rfl⟩

/-- A scheduled micro-op always answers a next state. -/
theorem exec_scheduled_next {i : Instr} {s : State} (h : nextUop s = some i) : ∃ t, exec i s = .next t := by
  rcases nextUop_fits h with ⟨x, rfl, -⟩ | ⟨j, x, rfl, -, -, hj⟩ | ⟨rfl, -⟩ | ⟨rfl, -⟩ | ⟨-, rfl, -⟩ | ⟨-, rfl, -⟩ |
    ⟨-, w, rfl, -⟩
  · exact ⟨_, rfl⟩
  · simp [exec, execUTgSlice, hj]
  · exact ⟨_, rfl⟩
  · exact ⟨_, rfl⟩
  · exact ⟨_, rfl⟩
  · exact ⟨_, rfl⟩
  · cases w <;> exact ⟨_, rfl⟩

/-! ## The sequencer -/

/-- What every move of the sequencer keeps. -/
theorem advance_keeps {α : Type} (g : State → α) (h1 : ∀ s x, g { s with tgI := x } = g s)
    (h2 : ∀ s j x, g { s with tgJ := j, tgI := x } = g s) (h3 : ∀ s, g (endBuild s) = g s)
    (h4 : ∀ s, g { s with stage := .loop } = g s) (i : Instr) (s : State) : g (advance i s) = g s := by
  have hb : ∀ j x, g (advanceBuild j x s) = g s := by
    intro j x
    rcases advanceBuild_cases j x s with ⟨-, e⟩ | ⟨-, -, e⟩ | ⟨-, -, e⟩ <;> rw [e]
    · exact h1 ..
    · exact h2 ..
    · exact h3 _
  cases i <;> first | exact rfl | exact hb _ _ | exact h4 _

theorem advance_bus (i : Instr) (s : State) : (advance i s).bus = s.bus :=
  advance_keeps State.bus (by simp) (by simp) (by simp) (by simp) i s

theorem advance_mem (i : Instr) (s : State) : (advance i s).mem = s.mem :=
  advance_keeps State.mem (by simp) (by simp) (by simp) (by simp) i s

theorem advance_cfg (i : Instr) (s : State) : (advance i s).cfg = s.cfg :=
  advance_keeps State.cfg (by simp) (by simp) (by simp) (by simp) i s

theorem advance_table (i : Instr) (s : State) : (advance i s).table = s.table :=
  advance_keeps State.table (by simp) (by simp) (by simp) (by simp) i s

theorem advance_result (i : Instr) (s : State) : (advance i s).result = s.result :=
  advance_keeps State.result (by simp) (by simp) (by simp) (by simp) i s

theorem advance_loads (i : Instr) (s : State) : (advance i s).loads = s.loads :=
  advance_keeps State.loads (by simp) (by simp) (by simp) (by simp) i s

/-- After a command the sequencer does not move. -/
theorem advance_command {i : Instr} (h : i.isCommand = true) (s : State) : advance i s = s := by
  cases i <;> simp_all [Instr.isCommand, advance]

/-- After a buffer micro-op the sequencer does not move: `PTR` and `REM` say where it stands. -/
theorem advance_buffer {i : Instr} {w : ReadWidth} (h : readWidth i = some w) (s : State) : advance i s = s := by
  cases i <;> first | rfl | cases h

theorem finish_eq_mapNext (i : Instr) (o : Host.Outcome State Fault Refusal) : finish i o = mapNext (advance i) o := by
  cases o <;> rfl

/-! ## Host stores -/

theorem writeReg_cfg (r : Reg) (v : Word) (s : State) : (writeReg r v s).cfg = s.cfg := by cases r <;> simp [writeReg]
theorem writeReg_phase (r : Reg) (v : Word) (s : State) : (writeReg r v s).phase = s.phase := by
  cases r <;> simp [writeReg]
theorem writeReg_tblReady (r : Reg) (v : Word) (s : State) : (writeReg r v s).tblReady = s.tblReady := by
  cases r <;> simp [writeReg]
theorem writeReg_err (r : Reg) (v : Word) (s : State) : (writeReg r v s).err = s.err := by cases r <;> simp [writeReg]
theorem writeReg_result (r : Reg) (v : Word) (s : State) : (writeReg r v s).result = s.result := by
  cases r <;> simp [writeReg]
theorem writeReg_table (r : Reg) (v : Word) (s : State) : (writeReg r v s).table = s.table := by
  cases r <;> simp [writeReg]
theorem writeReg_mem (r : Reg) (v : Word) (s : State) : (writeReg r v s).mem = s.mem := by cases r <;> simp [writeReg]
theorem writeReg_loads (r : Reg) (v : Word) (s : State) : (writeReg r v s).loads = s.loads := by
  cases r <;> simp [writeReg]

/-! ## Steps -/

/-- A store that takes effect anywhere but at `CMD` runs nothing. -/
theorem storeTurn_other {r : Reg} (h : r ≠ .cmd) (v : Word) (s : State) : storeTurn r v s = .quiet (writeReg r v s) := by
  cases r <;> first | rfl | exact absurd rfl h

/-- A command issue. -/
theorem turn_issue {w : Word} {s : State} (h : issues w s) : turn s = commandTurn w (afterEvent s) := by
  obtain ⟨hi, rest, hb⟩ := h
  unfold turn
  rw [hb]
  simp only [hi, Phase.fault, Phase.busy, afterEvent, hb]
  rfl

/-- Everything a step can be in which no instruction runs. -/
theorem turn_quiet_cases {s t : State} (h : turn s = .quiet t) :
    (nextUop s = none ∧ t = s) ∨
    (∃ rest, s.bus = .engine :: rest ∧ nextUop s = none ∧ t = afterEvent s) ∨
    (∃ rest, s.bus = .reset :: rest ∧ t = blockReset (afterEvent s)) ∨
    (∃ r rest, s.bus = .load r :: rest ∧ t = hostLoad r (afterEvent s)) ∨
    (∃ a b rest, s.bus = .memWrite a b :: rest ∧ a < addrSpace s.cfg ∧ t = hostMemWrite a b (afterEvent s)) ∨
    (∃ r v rest, s.bus = .store r v :: rest ∧ s.phase = .faulted ∧ t = afterEvent s) ∨
    (∃ r v rest, s.bus = .store r v :: rest ∧ s.phase = .idle ∧ r ≠ .cmd ∧ t = writeReg r v (afterEvent s)) ∨
    (∃ v rest e, s.bus = .store .cmd v :: rest ∧ s.phase = .idle ∧ decodeCommand v = .error e ∧
      t = illegalCommand (afterEvent s)) ∨
    (∃ rest, s.bus = .poll :: rest ∧ t = hostPoll (afterEvent s)) := by
  have eng : ∀ u, engineTurn u = .quiet t → nextUop u = none ∧ t = u := by
    intro u hu
    rcases engineTurn_cases u with ⟨h1, h2⟩ | ⟨k, h1, h2⟩ <;> rw [h2] at hu <;> cases hu
    exact ⟨h1, rfl⟩
  unfold turn at h
  split at h
  · exact .inl (eng _ h)
  · rename_i rest hb
    have := eng _ h
    exact .inr (.inl ⟨rest, hb, this.1, by simp [afterEvent, hb, this.2]⟩)
  · rename_i rest hb; cases h
    exact .inr (.inr (.inl ⟨rest, hb, by simp [afterEvent, hb]⟩))
  · rename_i r rest hb; cases h
    exact .inr (.inr (.inr (.inl ⟨r, rest, hb, by simp [afterEvent, hb]⟩)))
  · rename_i rest hb; cases h
    exact .inr (.inr (.inr (.inr (.inr (.inr (.inr (.inr ⟨rest, hb, by simp [afterEvent, hb]⟩)))))))
  · rename_i a b rest hb
    split at h <;> cases h
    exact .inr (.inr (.inr (.inr (.inl ⟨a, b, rest, hb, ‹_›, by simp [afterEvent, hb]⟩))))
  · cases h
  · rename_i r v rest hb
    split at h
    · cases h
      exact .inr (.inr (.inr (.inr (.inr (.inl
        ⟨r, v, rest, hb, by cases hp : s.phase <;> simp_all [Phase.fault], by simp [afterEvent, hb]⟩)))))
    split at h
    · exact .inl (eng _ h)
    · have hidle : s.phase = .idle := by cases hp : s.phase <;> simp_all [Phase.fault, Phase.busy]
      have ha : ({ s with bus := rest } : State) = afterEvent s := by simp [afterEvent, hb]
      rw [ha] at h
      by_cases hr : r = .cmd
      · subst hr
        simp only [storeTurn, commandTurn] at h
        split at h <;> cases h
        exact .inr (.inr (.inr (.inr (.inr (.inr (.inr (.inl ⟨v, rest, _, hb, hidle, ‹_›, rfl⟩)))))))
      · rw [storeTurn_other hr] at h
        cases h
        exact .inr (.inr (.inr (.inr (.inr (.inr (.inl ⟨r, v, rest, hb, hidle, hr, rfl⟩))))))

end Sys2Proof.Machine
end

