-- ==== Sys2Proof/Laws/Memory.lean ====
section
/-! SUPPORT. The laws of buffer memory: reads after writes, the canonical form, and what a wide read's bytes are. -/

namespace Sys2Proof.Machine

@[simp] theorem Memory.read_nil (a : Nat) : Memory.read [] a = unwritten := rfl

theorem Memory.read_cell (k : Nat) (v : Byte) (m : Memory) (a : Nat) :
    Memory.read ((k, v) :: m) a = if a = k then v else if a < k then unwritten else m.read a := rfl

/-! ## The canonical form -/

theorem Memory.wfFrom_cell {lo k : Nat} {v : Byte} {m : Memory} :
    Memory.wfFrom lo ((k, v) :: m) = true ↔ lo ≤ k ∧ v ≠ unwritten ∧ Memory.wfFrom (k + 1) m = true := by
  simp [Memory.wfFrom, and_assoc]

theorem Memory.wfFrom_mono {lo lo' : Nat} {m : Memory} (h : Memory.wfFrom lo m = true) (hl : lo' ≤ lo) :
    Memory.wfFrom lo' m = true := by
  cases m with
  | nil => rfl
  | cons c m =>
    obtain ⟨k, v⟩ := c
    rw [Memory.wfFrom_cell] at h ⊢
    exact ⟨hl.trans h.1, h.2⟩

theorem Memory.wfFrom_cons {lo a : Nat} {b : Byte} {m : Memory} (hl : lo ≤ a) (h : Memory.wfFrom (a + 1) m = true) :
    Memory.wfFrom lo (Memory.cons a b m) = true := by
  unfold Memory.cons
  split
  · exact Memory.wfFrom_mono h (by omega)
  · rw [Memory.wfFrom_cell]; exact ⟨hl, ‹_›, h⟩

theorem Memory.wfFrom_write {lo : Nat} {m : Memory} {a : Nat} {b : Byte} (h : Memory.wfFrom lo m = true) (hl : lo ≤ a) :
    Memory.wfFrom lo (m.write a b) = true := by
  induction m generalizing lo with
  | nil => exact Memory.wfFrom_cons hl rfl
  | cons c m ih =>
    obtain ⟨k, v⟩ := c
    have h' := Memory.wfFrom_cell.1 h
    unfold Memory.write
    split
    · subst a; exact Memory.wfFrom_cons hl h'.2.2
    · split
      · exact Memory.wfFrom_cons hl (Memory.wfFrom_cell.2 ⟨by omega, h'.2⟩)
      · exact Memory.wfFrom_cell.2 ⟨h'.1, h'.2.1, ih h'.2.2 (by omega)⟩

/-- A write keeps the canonical form. -/
theorem Memory.wf_write {m : Memory} (h : m.wf = true) (a : Nat) (b : Byte) : (m.write a b).wf = true :=
  Memory.wfFrom_write h (Nat.zero_le a)

theorem Memory.read_below {lo : Nat} {m : Memory} (h : Memory.wfFrom lo m = true) {a : Nat} (ha : a < lo) :
    m.read a = unwritten := by
  cases m with
  | nil => rfl
  | cons c m =>
    obtain ⟨k, v⟩ := c
    have := Memory.wfFrom_cell.1 h
    rw [Memory.read_cell, if_neg (by omega), if_pos (by omega)]

/-! ## Reads after writes -/

theorem Memory.read_cons {lo a : Nat} {b : Byte} {m : Memory} (h : Memory.wfFrom (a + 1) m = true) (_ : lo ≤ a) (x : Nat) :
    (Memory.cons a b m).read x = if x = a then b else m.read x := by
  unfold Memory.cons
  by_cases hb : b = unwritten
  · rw [if_pos hb]
    split
    · subst x; rw [hb, Memory.read_below h (by omega)]
    · rfl
  · rw [if_neg hb, Memory.read_cell]
    by_cases hx : x = a
    · simp [hx]
    · simp only [hx, if_false]
      split
      · rw [Memory.read_below h (by omega)]
      · rfl

theorem Memory.read_writeFrom {lo : Nat} {m : Memory} (h : Memory.wfFrom lo m = true) {a : Nat} (hl : lo ≤ a) (b : Byte)
    (x : Nat) : (m.write a b).read x = if x = a then b else m.read x := by
  induction m generalizing lo with
  | nil => exact Memory.read_cons (lo := lo) rfl hl x
  | cons c m ih =>
    obtain ⟨k, v⟩ := c
    have h' := Memory.wfFrom_cell.1 h
    unfold Memory.write
    split
    · subst a
      rw [Memory.read_cons (lo := lo) h'.2.2 hl, Memory.read_cell]
      by_cases hx : x = k
      · simp [hx]
      · simp only [hx, if_false]
        split
        · exact Memory.read_below h'.2.2 (by omega)
        · rfl
    · split
      · exact Memory.read_cons (lo := lo) (Memory.wfFrom_cell.2 ⟨by omega, h'.2⟩) hl x
      · rw [Memory.read_cell, Memory.read_cell, ih h'.2.2 (by omega)]
        by_cases hx : x = k
        · subst x
          rw [if_pos rfl, if_pos rfl, if_neg (by omega)]
        · rw [if_neg hx, if_neg hx]
          by_cases hlt : x < k
          · rw [if_pos hlt, if_pos hlt, if_neg (by omega)]
          · rw [if_neg hlt, if_neg hlt]

/-- A read after a write of the same address gives the byte written; every other address reads as before. -/
theorem Memory.read_write {m : Memory} (h : m.wf = true) (a : Nat) (b : Byte) (x : Nat) :
    (m.write a b).read x = if x = a then b else m.read x :=
  Memory.read_writeFrom h (Nat.zero_le a) b x

theorem Memory.eq_of_read_from {lo : Nat} {m n : Memory} (hm : Memory.wfFrom lo m = true) (hn : Memory.wfFrom lo n = true)
    (h : ∀ a, m.read a = n.read a) : m = n := by
  induction m generalizing lo n with
  | nil =>
    cases n with
    | nil => rfl
    | cons c n =>
      obtain ⟨k, v⟩ := c
      have := h k
      rw [Memory.read_nil, Memory.read_cell, if_pos rfl] at this
      exact absurd this.symm (Memory.wfFrom_cell.1 hn).2.1
  | cons c m ih =>
    obtain ⟨k, v⟩ := c
    have hm' := Memory.wfFrom_cell.1 hm
    cases n with
    | nil =>
      have := h k
      rw [Memory.read_nil, Memory.read_cell, if_pos rfl] at this
      exact absurd this hm'.2.1
    | cons d n =>
      obtain ⟨k', v'⟩ := d
      have hn' := Memory.wfFrom_cell.1 hn
      have hk : k = k' := by
        rcases Nat.lt_trichotomy k k' with hlt | heq | hgt
        · have := h k
          rw [Memory.read_cell, if_pos rfl, Memory.read_cell, if_neg (by omega), if_pos hlt] at this
          exact absurd this hm'.2.1
        · exact heq
        · have := h k'
          rw [Memory.read_cell, if_neg (by omega), if_pos hgt, Memory.read_cell, if_pos rfl] at this
          exact absurd this.symm hn'.2.1
      subst hk
      have hv : v = v' := by simpa [Memory.read_cell] using h k
      subst hv
      refine congrArg _ (ih hm'.2.2 hn'.2.2 fun a => ?_)
      by_cases ha : k < a
      · have := h a
        rwa [Memory.read_cell, Memory.read_cell, if_neg (by omega), if_neg (by omega), if_neg (by omega),
          if_neg (by omega)] at this
      · rw [Memory.read_below hm'.2.2 (by omega), Memory.read_below hn'.2.2 (by omega)]

/-- Memories in canonical form that read alike are equal. -/
theorem Memory.eq_of_read {m n : Memory} (hm : m.wf = true) (hn : n.wf = true) (h : ∀ a, m.read a = n.read a) : m = n :=
  Memory.eq_of_read_from hm hn h

/-! ## Bytes of a range -/

@[simp] theorem bytesAt_zero (m : Memory) (a : Nat) : bytesAt m a 0 = [] := rfl

@[simp] theorem bytesAt_succ (m : Memory) (a n : Nat) : bytesAt m a (n + 1) = m.read a :: bytesAt m (a + 1) n := rfl

@[simp] theorem bytesAt_length (m : Memory) (a n : Nat) : (bytesAt m a n).length = n := by
  induction n generalizing a with
  | zero => rfl
  | succ n ih => simp [ih]

theorem bytesAt_add (m : Memory) (a k n : Nat) : bytesAt m a (k + n) = bytesAt m a k ++ bytesAt m (a + k) n := by
  induction k generalizing a with
  | zero => simp
  | succ k ih => rw [Nat.add_right_comm, bytesAt_succ, bytesAt_succ, ih]; simp [Nat.add_assoc, Nat.add_comm 1 k]

theorem bytesAt_congr {m m' : Memory} {a n : Nat} (h : ∀ x, a ≤ x → x < a + n → m.read x = m'.read x) :
    bytesAt m a n = bytesAt m' a n := by
  induction n generalizing a with
  | zero => rfl
  | succ n ih =>
    rw [bytesAt_succ, bytesAt_succ, h a (by omega) (by omega), ih fun x h1 h2 => h x (by omega) (by omega)]

/-- A write outside a range leaves the range's bytes. -/
theorem bytesAt_write {m : Memory} (hm : m.wf = true) {x a n : Nat} (b : Byte) (h : x < a ∨ a + n ≤ x) :
    bytesAt (m.write x b) a n = bytesAt m a n :=
  bytesAt_congr fun y h1 h2 => by rw [Memory.read_write hm, if_neg (by omega)]

end Sys2Proof.Machine
end

