-- ==== Sys2Proof/Laws/PerInstr.lean ====
section
/-! SUPPORT. One fact about every instruction as syntax, a lemma per constructor: its encoding is a command word
exactly for a command, and carries the instruction's number in bits [3:0] (30_encoding.md R91, R100). -/

namespace Sys2Proof

/-- The number the tables of R91 (`OP`) and R100 (`UCODE`) give an instruction. -/
def Instr.number : Instr → BitVec 4
  | .featq => 0x1#4
  | .tblgen => 0x2#4
  | .calcSw _ _ _ => 0x3#4
  | .calcHw _ _ _ => 0x3#4
  | .uTgBase _ => 0x1#4
  | .uTgSlice _ _ => 0x2#4
  | .uInit => 0x3#4
  | .uSwByte => 0x4#4
  | .uSwSlice8 => 0x5#4
  | .uHwFold1 => 0x6#4
  | .uHwFold2 => 0x7#4
  | .uHwFold4 => 0x8#4
  | .uHwFold8 => 0x9#4
  | .uFinal => 0xA#4

/-- Bits [3:0] of an encoding. -/
def Encoding.low4 : Encoding → BitVec 4
  | .command w => w.extractLsb' 0 4
  | .label l => l.extractLsb' 0 4

/-- Whether an encoding is a command word. -/
def Encoding.isCommand : Encoding → Bool
  | .command _ => true
  | .label _ => false

namespace Laws.OpcodeField

/-- The family: `OP` or `UCODE` stands in bits [3:0], and commands alone are command words. -/
def Statement (i : Instr) : Prop := (encode i).low4 = i.number ∧ (encode i).isCommand = i.isCommand

theorem featq : Statement .featq := ⟨by decide, rfl⟩
theorem tblgen : Statement .tblgen := ⟨by decide, rfl⟩
theorem calcSw (f : FlagKind) (d : DataKind) (k : InitKind) : Statement (.calcSw f d k) :=
  ⟨by cases f <;> cases d <;> cases k <;> decide, rfl⟩
theorem calcHw (f : FlagKind) (d : DataKind) (k : InitKind) : Statement (.calcHw f d k) :=
  ⟨by cases f <;> cases d <;> cases k <;> decide, rfl⟩
theorem uTgBase (i : BitVec 8) : Statement (.uTgBase i) :=
  ⟨encodeLabel_ucode .., rfl⟩
theorem uTgSlice (j : BitVec 3) (i : BitVec 8) : Statement (.uTgSlice j i) :=
  ⟨encodeLabel_ucode .., rfl⟩
theorem uInit : Statement .uInit := ⟨by decide, rfl⟩
theorem uSwByte : Statement .uSwByte := ⟨by decide, rfl⟩
theorem uSwSlice8 : Statement .uSwSlice8 := ⟨by decide, rfl⟩
theorem uHwFold1 : Statement .uHwFold1 := ⟨by decide, rfl⟩
theorem uHwFold2 : Statement .uHwFold2 := ⟨by decide, rfl⟩
theorem uHwFold4 : Statement .uHwFold4 := ⟨by decide, rfl⟩
theorem uHwFold8 : Statement .uHwFold8 := ⟨by decide, rfl⟩
theorem uFinal : Statement .uFinal := ⟨by decide, rfl⟩

end Laws.OpcodeField

end Sys2Proof
end

