-- ==== Sys2Proof/Laws/Platform.lean ====
section
/-! SUPPORT. `CRC_BASE` is an address of the host's address space, and `MEM_ADMIT` as a list of regions says no less
than a predicate (00_scope.md R8). -/

namespace Sys2Proof.Machine

theorem addrSpace_pos (p : Platform) : 0 < addrSpace p := Nat.two_pow_pos _

/-- `CRC_BASE` is below 2^ADDR_W on every platform. -/
theorem blockBase_lt (p : Platform) : blockBase p < addrSpace p := Nat.mod_lt _ (addrSpace_pos p)

/-- When ADDR_W = 64 the field is the address. -/
theorem blockBase_w64 {p : Platform} (h : p.addrW = .w64) : blockBase p = p.crcBase.toNat := by
  unfold blockBase addrSpace
  rw [h]
  exact Nat.mod_eq_of_lt (BitVec.isLt _)

theorem blockEnd_le (p : Platform) : blockEnd p ≤ addrSpace p := Nat.min_le_right _ _

/-- At least one byte of the block exists. -/
theorem blockBase_lt_blockEnd (p : Platform) : blockBase p < blockEnd p :=
  Nat.lt_min.2 ⟨Nat.lt_add_of_pos_right (by decide), blockBase_lt p⟩

/-- The regions that admitted exactly the reads a predicate admits below an address bound. -/
def regionsOf (admits : Nat → ReadWidth → Bool) (bound : Nat) : List AdmitRegion :=
  (List.range bound).flatMap fun a =>
    (([.one, .two, .four, .eight] : List ReadWidth).filter (admits a)).map fun w => ⟨a, w.bytes, [w]⟩

theorem ReadWidth.bytes_pos (w : ReadWidth) : 0 < w.bytes := by cases w <;> decide

theorem ReadWidth.bytes_le (w : ReadWidth) : w.bytes ≤ 8 := by cases w <;> decide

/-- Every predicate on the buffer reads of an address space is `memAdmit` of some list of regions. -/
theorem regions_express_every_predicate (admits : Nat → ReadWidth → Bool) (p : Platform) (a : Nat) (w : ReadWidth)
    (ha : a < addrSpace p) :
    memAdmit { p with admitted := regionsOf admits (addrSpace p) } a w = admits a w := by
  have hmem : ∀ u : ReadWidth, u ∈ ([.one, .two, .four, .eight] : List ReadWidth) := by intro u; cases u <;> simp
  unfold memAdmit
  rw [Bool.eq_iff_iff, List.any_eq_true]
  constructor
  · rintro ⟨r, hr, hadm⟩
    simp only [regionsOf, List.mem_flatMap, List.mem_map, List.mem_filter] at hr
    obtain ⟨x, -, u, ⟨-, hu⟩, rfl⟩ := hr
    simp only [regionAdmits, Bool.and_eq_true, decide_eq_true_eq, List.contains_iff_mem, List.mem_singleton] at hadm
    obtain ⟨⟨h1, h2⟩, rfl⟩ := hadm
    have : a = x := by omega
    subst this; exact hu
  · intro h
    refine ⟨⟨a, w.bytes, [w]⟩, ?_, by simp [regionAdmits]⟩
    simp only [regionsOf, List.mem_flatMap, List.mem_map, List.mem_filter, List.mem_range]
    exact ⟨a, ha, w, ⟨hmem w, h⟩, rfl⟩

end Sys2Proof.Machine
end

