-- ==== Sys2Proof/Laws/Run.lean ====
section
/-! SUPPORT. Runs of several steps. -/

namespace Sys2Proof.Machine

@[simp] theorem steps_zero (s : State) : steps 0 s = .next s := rfl

theorem steps_succ (k : Nat) (s : State) :
    steps (k + 1) s = match step s with
      | .next t => steps k t
      | .fault r => .fault r
      | .refused r => .refused r := rfl

theorem steps_succ_next {s t : State} (h : step s = .next t) (k : Nat) : steps (k + 1) s = steps k t := by
  rw [steps_succ, h]

/-- The first step of a run that answers a next state. -/
theorem steps_succ_iff {k : Nat} {s u : State} :
    steps (k + 1) s = .next u ↔ ∃ t, step s = .next t ∧ steps k t = .next u := by
  rw [steps_succ]
  cases step s <;> simp

theorem run_succ_next (M : Host.Core) (k : Nat) {s t : M.State} (h : M.step s = .next t) :
    M.run (k + 1) s = M.run k t := by
  rw [Host.Core.run, h]

theorem run_succ_fault (M : Host.Core) (k : Nat) {s : M.State} {r : M.Fault} (h : M.step s = .fault r) :
    M.run (k + 1) s = .fault r := by
  rw [Host.Core.run, h]

theorem run_succ_refused (M : Host.Core) (k : Nat) {s : M.State} {r : M.Refusal} (h : M.step s = .refused r) :
    M.run (k + 1) s = .refused r := by
  rw [Host.Core.run, h]

/-- `steps` is the host's run of the core. -/
theorem steps_eq_run (k : Nat) (s : State) : steps k s = Host.Core.run Sys2Proof.core k s := by
  induction k generalizing s with
  | zero => rfl
  | succ k ih =>
    rw [steps_succ]
    cases h : step s with
    | next t => exact (ih t).trans (run_succ_next Sys2Proof.core k h).symm
    | fault r => exact (run_succ_fault Sys2Proof.core k h).symm
    | refused r => exact (run_succ_refused Sys2Proof.core k h).symm

/-- Runs compose. -/
theorem steps_add {k : Nat} {s t : State} (h : steps k s = .next t) (n : Nat) : steps (k + n) s = steps n t := by
  induction k generalizing s with
  | zero => cases h; rw [Nat.zero_add]
  | succ k ih =>
    obtain ⟨u, hu, hk⟩ := steps_succ_iff.1 h
    rw [Nat.add_right_comm, steps_succ_next hu, ih hk]

/-- What every step keeps, every run keeps. -/
theorem steps_induction {P : State → State → Prop} (hrefl : ∀ s, P s s)
    (hstep : ∀ s t u, step s = .next t → P t u → P s u) {k : Nat} {s u : State} (h : steps k s = .next u) : P s u := by
  induction k generalizing s with
  | zero => cases h; exact hrefl _
  | succ k ih =>
    obtain ⟨t, ht, hk⟩ := steps_succ_iff.1 h
    exact hstep s t u ht (ih hk)

end Sys2Proof.Machine
end

