-- ==== Sys2Proof/Laws/Table.lean ====
section
/-! SUPPORT. Reading and writing `TABLE`. -/

namespace Sys2Proof.Machine

@[simp] theorem Table.get_set_same (t : Table) (j : BitVec 3) (i : BitVec 8) (v : Word) : (t.set j i v).get j i = v := by
  simp [Table.get, Table.set]

theorem Table.get_set_other (t : Table) {j j' : BitVec 3} {i i' : BitVec 8} (v : Word) (h : ¬(j' = j ∧ i' = i)) :
    (t.set j i v).get j' i' = t.get j' i' := by
  unfold Table.get Table.set
  rw [Vector.getElem_set]
  by_cases hj : j.toNat = j'.toNat
  · have hj' : j' = j := BitVec.eq_of_toNat_eq hj.symm
    subst hj'
    have hi : i.toNat ≠ i'.toNat := fun hi => h ⟨rfl, BitVec.eq_of_toNat_eq hi.symm⟩
    simp [hi]
  · simp [hj]

/-- What a read after a write gives. -/
theorem Table.get_set (t : Table) (j j' : BitVec 3) (i i' : BitVec 8) (v : Word) :
    (t.set j i v).get j' i' = if j' = j ∧ i' = i then v else t.get j' i' := by
  split
  · obtain ⟨rfl, rfl⟩ := ‹_›; exact Table.get_set_same ..
  · exact Table.get_set_other t v ‹_›

@[simp] theorem Table.get_built (j : BitVec 3) (i : BitVec 8) : Table.built.get j i = tableValue j i := by
  simp [Table.get, Table.built]

/-- Tables with equal entries are equal. -/
theorem Table.ext_get {t u : Table} (h : ∀ j i, t.get j i = u.get j i) : t = u := by
  apply Vector.ext
  intro j hj
  apply Vector.ext
  intro i hi
  have := h (BitVec.ofNat 3 j) (BitVec.ofNat 8 i)
  have hj' : j % 8 = j := Nat.mod_eq_of_lt hj
  have hi' : i % 256 = i := Nat.mod_eq_of_lt hi
  simpa [Table.get, hj', hi'] using this

/-- Writing the value an entry already holds changes nothing. -/
theorem Table.set_get_self (t : Table) (j : BitVec 3) (i : BitVec 8) : t.set j i (t.get j i) = t :=
  Table.ext_get fun j' i' => by rw [Table.get_set]; split <;> simp_all

end Sys2Proof.Machine
end

