-- ==== Sys2Proof/Tests/Slice0.lean ====
section
/-! SUPPORT. The model's own tests. Expected values are those of spec/95_test_vectors.md (named at each test) or words
written out from spec/30_encoding.md. After them, for every obligation with hypotheses, a theorem `witness_<name>` that
concrete states and operands meet the hypotheses of each of its clauses, at boundary values. -/

namespace Sys2Proof.Tests

open Sys2Proof.Machine

-- One theorem is checked at a time: the checks below share no work, and this keeps their memory small.
set_option Elab.async false

/-! ## Helpers -/

/-- The next state, if there is one. -/
def after (o : Host.Outcome State Fault Refusal) : Option State :=
  match o with
  | .next t => some t
  | .fault _ => none
  | .refused _ => none

theorem next_of {o : Host.Outcome State Fault Refusal} (p : State → Bool) (h : (after o).any p = true) :
    ∃ t, o = .next t ∧ p t = true := by
  cases o with
  | next t => exact ⟨t, rfl, h⟩
  | fault r => cases h
  | refused r => cases h

/-- A platform with the hardware path, on which every read below `top` is admitted. -/
def platTo (top : Nat) : Platform :=
  { addrW := .w64
    crcBase := 0x40000000#64
    featureWord := 0x00100000#32
    cpuidAvailable := true
    admitted := [⟨0, top, [.one, .two, .four, .eight]⟩] }

def plat : Platform := platTo (2 ^ 64)

/-- The same without the hardware path. -/
def platNoHw : Platform := { plat with featureWord := 0#32 }

/-- The same with ADDR_W = 32. -/
def plat32 : Platform := { plat with addrW := .w32 }

/-- The same with the register block elsewhere. -/
def platAt (base : BitVec 64) : Platform := { plat with crcBase := base }

/-- The bytes "123456789" from an address on. -/
def digits (a : Nat) : Memory :=
  [(a, 0x31#8), (a + 1, 0x32#8), (a + 2, 0x33#8), (a + 3, 0x34#8), (a + 4, 0x35#8), (a + 5, 0x36#8), (a + 6, 0x37#8),
   (a + 7, 0x38#8), (a + 8, 0x39#8)]

/-- An idle block after the reset build: `ADDR` = 0x1000, `LEN` = 9, "123456789" there, `RESULT` = 0xAAAA. -/
def idleOn (p : Platform) : State :=
  { State.resetOn p with
    phase := .idle, tblReady := true, table := Table.built, result := 0x0000AAAA#32
    addrLo := 0x1000#32, lenLo := 9#32, mem := digits 0x1000 }

/-- The same with a command word waiting. -/
def withCmd (w : Word) (p : Platform) : State := { idleOn p with bus := [.store .cmd w] }

/-- A CALC of 9 bytes at 0x1000 in its loop. -/
def calcAt (ph : Phase) (acc : Word) (ptr rem : Nat) : State :=
  { idleOn plat with phase := ph, stage := .loop, acc := acc, ptr := ptr, rem := rem }

/-- A buffer micro-op's operands: an accumulator and the bytes at 0x1000. -/
def foldOf (acc : Word) (m : Memory) (rem : Nat) : State :=
  { calcAt .calcSw acc 0x1000 rem with mem := m }

/-- What a buffer micro-op leaves in `ACC`, `PTR` and `REM`. -/
def folded (i : Instr) (s : State) : Option (Word × Nat × Nat) :=
  (after (exec i s)).map fun t => (t.acc, t.ptr, t.rem)

/-! ## Well-formedness and decoding -/

theorem test_wf_refuses_slice_zero : Instr.wf (.uTgSlice 0#3 5#8) = false := by decide
theorem test_wf_accepts_slices : Instr.wf (.uTgSlice 1#3 0#8) = true ∧ Instr.wf (.uTgSlice 7#3 255#8) = true := by
  decide

/-- The words of R97's table, and two with their fields written out bit by bit: `INIT_KIND DATA_KIND FLAG_KIND 0 USE_HW
OP`. -/
theorem test_decode_commands :
    decodeCommand 0x00000001#32 = .ok .featq ∧ decodeCommand 0x00000002#32 = .ok .tblgen ∧
    decodeCommand 0b00000000000000000000_10_01_00_0_0_0011#32 = .ok (.calcSw .bool .text .notU32) ∧
    decodeCommand 0b00000000000000000000_01_11_10_0_1_0011#32 = .ok (.calcHw .absent .other .u32) ∧
    decodeCommand 0x00000843#32 = .ok (.calcSw .notBool .bytes .notU32) ∧
    decodeCommand 0x00000203#32 = .ok (.calcSw .bool .absent .default) := by decide

/-- Labels: `I 0 J UCODE` (R99). -/
theorem test_decode_labels :
    decodeLabel 0b10000000_0_000_0001#16 = .ok (.uTgBase 0x80#8) ∧
    decodeLabel 0b00000001_0_010_0010#16 = .ok (.uTgSlice 2#3 1#8) ∧
    decodeLabel 0x0003#16 = .ok .uInit ∧ decodeLabel 0x0004#16 = .ok .uSwByte ∧ decodeLabel 0x0005#16 = .ok .uSwSlice8 ∧
    decodeLabel 0x0006#16 = .ok .uHwFold1 ∧ decodeLabel 0x0007#16 = .ok .uHwFold2 ∧
    decodeLabel 0x0008#16 = .ok .uHwFold4 ∧ decodeLabel 0x0009#16 = .ok .uHwFold8 ∧
    decodeLabel 0x000A#16 = .ok .uFinal := by decide

/-- V-ERR-7 to V-ERR-16. -/
theorem test_decode_illegal :
    decodeCommand 0x00000000#32 = .error .reservedOp ∧ decodeCommand 0x00000004#32 = .error .reservedOp ∧
    decodeCommand 0x0000000F#32 = .error .reservedOp ∧ decodeCommand 0x00000023#32 = .error .reservedBits ∧
    decodeCommand 0x00001003#32 = .error .reservedBits ∧ decodeCommand 0x80000003#32 = .error .reservedBits ∧
    decodeCommand 0x000000C3#32 = .error .reservedFlagKind ∧ decodeCommand 0x00000C03#32 = .error .reservedInitKind ∧
    decodeCommand 0x00000011#32 = .error .operandBits ∧ decodeCommand 0x00000102#32 = .error .operandBits := by decide

/-- Labels that name no micro-op (R99, R100). -/
theorem test_decode_no_label :
    decodeLabel 0x0000#16 = .error .unusedMicroCode ∧ decodeLabel 0x000B#16 = .error .unusedMicroCode ∧
    decodeLabel 0x000F#16 = .error .unusedMicroCode ∧ decodeLabel 0x0002#16 = .error .sliceZero ∧
    decodeLabel 0x0083#16 = .error .reservedLabelBit ∧ decodeLabel 0x0103#16 = .error .strayI ∧
    decodeLabel 0x0011#16 = .error .strayJ ∧ decodeLabel 0x0013#16 = .error .strayJ := by decide

theorem test_decodeTableWord :
    decodeTableWord 32 1 = some .featq ∧ decodeTableWord 16 0xFF12 = some (.uTgSlice 1#3 255#8) ∧
    decodeTableWord 16 2 = none ∧ decodeTableWord 32 0x23 = none ∧ decodeTableWord 8 1 = none := by decide

/-! ## One step of each instruction -/

/-- V-ERR-27 and V-ERR-26. -/
theorem test_featq :
    (after (step (withCmd 1#32 plat))).map (fun t => (t.result, t.statusWord)) = some (1#32, 2#32) ∧
    (after (step (withCmd 1#32 platNoHw))).map (fun t => (t.result, t.statusWord)) = some (0#32, 2#32) := by
  decide +kernel

/-- R136: `STATUS` reads 0x3, and the first micro-op is U_TG_BASE of entry 0. -/
theorem test_tblgen :
    (after (step (withCmd 2#32 plat))).map (fun t => (t.statusWord, nextUop t)) = some (3#32, some (.uTgBase 0#8)) := by
  decide +kernel

/-- V-ERR-20's acceptance: `PTR`, `REM`, the initial value, and U_INIT next. -/
theorem test_calcSw :
    (after (step (withCmd 3#32 platNoHw))).map (fun t => (t.statusWord, t.ptr, t.rem, t.initLatch, nextUop t))
      = some (3#32, 0x1000, 9, 0#32, some .uInit) := by decide +kernel

/-- V-ERR-23: `ADDR + LEN` = 2^64 + 1. -/
theorem test_calcSw_wraps :
    (after (step { withCmd 3#32 plat with addrHi := 0xFFFFFFFF#32, addrLo := 0xFFFFFFF8#32 })).map
      (fun t => (t.statusWord, t.result)) = some (0x12#32, 0xAAAA#32) := by decide +kernel

/-- V-ERR-18: without the path, a fault that leaves `RESULT`. -/
theorem test_calcHw_no_path :
    (after (step (withCmd 0x13#32 platNoHw))).map (fun t => (t.statusWord, t.result, t.faultAddrLo))
      = some (0x36#32, 0xAAAA#32, 0#32) := by decide +kernel

/-- V-ERR-6: the argument check comes before the path check. -/
theorem test_calcHw_bad_arguments :
    (after (step (withCmd 0x853#32 platNoHw))).map (fun t => (t.statusWord, t.result)) = some (0x12#32, 0xAAAA#32) := by
  decide +kernel

/-- V-TG-5, V-TG-6, V-TG-2: on an empty table. -/
theorem test_uTgBase :
    (after (exec (.uTgBase 0x80#8) (State.resetOn plat))).map (fun t => t.table.get 0#3 0x80#8) = some 0x82F63B78#32 ∧
    (after (exec (.uTgBase 0xFF#8) (State.resetOn plat))).map (fun t => t.table.get 0#3 0xFF#8) = some 0xAD7D5351#32 ∧
    (after (exec (.uTgBase 0x01#8) (State.resetOn plat))).map (fun t => t.table.get 0#3 0x01#8) = some 0xF26B8303#32 := by
  simp only [exec, execUTgBase, after, Option.map_some, Table.get_set_same]
  decide +kernel

theorem slice_built (j : BitVec 3) (i : BitVec 8) (h : j ≠ 0#3) :
    (after (exec (.uTgSlice j i) (idleOn plat))).map (fun t => t.table.get j i)
      = some (tableValue 0#3 ((tableValue (j - 1#3) i).extractLsb' 0 8) ^^^ (tableValue (j - 1#3) i >>> 8)) := by
  simp only [exec, execUTgSlice, if_neg h, after, Option.map_some, Table.get_set_same, sliceEntry, idleOn,
    Table.get_built]

/-- V-TG-7, V-TG-16: entries recomputed from the slices before. -/
theorem test_uTgSlice :
    (after (exec (.uTgSlice 1#3 0x01#8) (idleOn plat))).map (fun t => t.table.get 1#3 0x01#8) = some 0x13A29877#32 ∧
    (after (exec (.uTgSlice 7#3 0xFF#8) (idleOn plat))).map (fun t => t.table.get 7#3 0xFF#8) = some 0x1F1530A5#32 := by
  rw [slice_built 1#3 1#8 (by decide), slice_built 7#3 0xFF#8 (by decide)]
  decide +kernel

/-- Entries of the table of §2, slices 2, 3 and 7. -/
theorem test_table_entries :
    tableValue 2#3 0xFF#8 = 0x91052BA8#32 ∧ tableValue 3#3 0x80#8 = 0x52A0C93F#32 ∧
    tableValue 7#3 0x01#8 = 0x493C7D27#32 := by decide +kernel

/-- V-IF-1, V-IF-3. -/
theorem test_uInit :
    (after (exec .uInit (idleOn plat))).map (fun t => t.acc) = some 0xFFFFFFFF#32 ∧
    (after (exec .uInit { idleOn plat with initLatch := 0x12345678#32 })).map (fun t => t.acc)
      = some 0xEDCBA987#32 := by decide +kernel

theorem folded_of {i : Instr} {w : ReadWidth} {x : Word} {s : State} (he : exec i s = .next (bufferMicroOp w x s))
    (ha : memAdmit s.cfg s.ptr w = true) (hr : w.bytes ≤ s.rem) :
    folded i s = some (x, s.ptr + w.bytes, s.rem - w.bytes) := by
  simp only [folded, he, after, Option.map_some, bufferMicroOp_admitted x ha, consume, remAfter_of_le hr]

theorem byte_built (acc : Word) (m : Memory) (rem : Nat) (h : 1 ≤ rem) :
    folded .uSwByte (foldOf acc m rem)
      = some (tableValue 0#3 ((acc ^^^ (memRead m 0x1000 1).setWidth 32).extractLsb' 0 8) ^^^ (acc >>> 8),
          0x1001, rem - 1) := by
  rw [← Table.get_built 0#3]
  exact folded_of (w := .one) (s := foldOf acc m rem) rfl (by decide +kernel : memAdmit plat 0x1000 .one = true) h

/-- The eight lookups of a word in a built table. -/
def builtLookups (x : BitVec 64) : Word :=
  tableValue 7#3 (x.extractLsb' 0 8) ^^^ tableValue 6#3 (x.extractLsb' 8 8) ^^^
  tableValue 5#3 (x.extractLsb' 16 8) ^^^ tableValue 4#3 (x.extractLsb' 24 8) ^^^
  tableValue 3#3 (x.extractLsb' 32 8) ^^^ tableValue 2#3 (x.extractLsb' 40 8) ^^^
  tableValue 1#3 (x.extractLsb' 48 8) ^^^ tableValue 0#3 (x.extractLsb' 56 8)

theorem slice8_built (acc : Word) (m : Memory) (rem : Nat) (h : 8 ≤ rem) :
    folded .uSwSlice8 (foldOf acc m rem)
      = some (builtLookups (memRead m 0x1000 8 ^^^ acc.setWidth 64), 0x1008, rem - 8) := by
  have e : builtLookups (memRead m 0x1000 8 ^^^ acc.setWidth 64) = swSlice8 Table.built acc (memRead m 0x1000 8) := by
    simp only [swSlice8, slice8Lookups, Table.get_built, builtLookups]
  rw [e]
  exact folded_of (w := .eight) (s := foldOf acc m rem) rfl
    (by decide +kernel : memAdmit plat 0x1000 .eight = true) h

/-- V-B-2, V-B-4. -/
theorem test_uSwByte :
    folded .uSwByte (foldOf 0xFFFFFFFF#32 [(0x1000, 0x31#8)] 9) = some (0x6F0A661C#32, 0x1001, 8) ∧
    folded .uSwByte (foldOf 0x12345678#32 [(0x1000, 0x9A#8)] 1) = some (0x0219ECBB#32, 0x1001, 0) := by
  rw [byte_built _ _ _ (by decide), byte_built _ _ _ (by decide)]
  decide +kernel

/-- V-MF-1: the read at 0x6000 is not admitted. -/
theorem test_uSwByte_fault :
    (after (step { calcAt .calcSw 0x09C50B11#32 0x6000 5 with cfg := platTo 0x6000 })).map
      (fun t => (t.statusWord, t.faultAddrLo, t.faultAddrHi, t.result)) = some (0x46#32, 0x6000#32, 0#32, 0xAAAA#32) ∧
    memAdmit (platTo 0x6000) 0x5FFF .one = true := by decide +kernel

/-- V-SL-1, V-SL-4. -/
theorem test_uSwSlice8 :
    folded .uSwSlice8 (foldOf 0xFFFFFFFF#32 (digits 0x1000) 9) = some (0x9F787F65#32, 0x1008, 1) ∧
    folded .uSwSlice8 (foldOf 0x12345678#32 [(0x1000, 0xEF#8), (0x1001, 0xCD#8), (0x1002, 0xAB#8), (0x1003, 0x89#8),
      (0x1004, 0x67#8), (0x1005, 0x45#8), (0x1006, 0x23#8), (0x1007, 0x01#8)] 8) = some (0xA3D207BE#32, 0x1008, 0) := by
  rw [slice8_built _ _ _ (by decide), slice8_built _ _ _ (by decide)]
  decide +kernel

/-- V-B-6, V-B-4. -/
theorem test_uHwFold1 :
    folded .uHwFold1 (foldOf 0#32 [(0x1000, 0x31#8)] 1) = some (0xC288CAB2#32, 0x1001, 0) ∧
    folded .uHwFold1 (foldOf 0x12345678#32 [(0x1000, 0x9A#8)] 1) = some (0x0219ECBB#32, 0x1001, 0) := by decide +kernel

/-- V-HF-1, V-HF-6. -/
theorem test_uHwFold2 :
    folded .uHwFold2 (foldOf 0xFFFFFFFF#32 (digits 0x1000) 9) = some (0x8CAA3B9F#32, 0x1002, 7) ∧
    folded .uHwFold2 (foldOf 0xAD82ACAE#32 [(0x1000, 1#8), (0x1001, 2#8)] 2) = some (0x6D02B405#32, 0x1002, 0) := by
  decide +kernel

/-- V-HF-3, V-HF-5. -/
theorem test_uHwFold4 :
    folded .uHwFold4 (foldOf 0xFFFFFFFF#32 (digits 0x1000) 9) = some (0x09C50B11#32, 0x1004, 5) ∧
    folded .uHwFold4 (foldOf 0x6F0A661C#32 [(0x1000, 0x32#8), (0x1001, 0x33#8), (0x1002, 0x34#8), (0x1003, 0x35#8)] 4)
      = some (0xE72EDCCA#32, 0x1004, 0) := by decide +kernel

/-- V-SL-5, V-SL-1. -/
theorem test_uHwFold8 :
    folded .uHwFold8 (foldOf 0#32 (digits 0x1000) 8) = some (0xECAF3210#32, 0x1008, 0) ∧
    folded .uHwFold8 (foldOf 0xFFFFFFFF#32 (digits 0x1000) 9) = some (0x9F787F65#32, 0x1008, 1) := by decide +kernel

/-- V-IF-4, V-IF-5. -/
theorem test_uFinal :
    (after (step (calcAt .calcSw 0x1CF96D7C#32 0x1009 0))).map (fun t => (t.result, t.statusWord))
      = some (0xE3069283#32, 2#32) ∧
    (after (step (calcAt .calcHw 0xFFFFFFFF#32 0x1009 0))).map (fun t => (t.result, t.statusWord))
      = some (0#32, 2#32) := by decide +kernel

/-! ## The first step after reset -/

/-- Every row of the opcode table, with its operand bits 0 (slice 1 for U_TG_SLICE, whose `J` is never 0), placed where
the step after reset runs it. -/
theorem test_runs_after_reset :
    (([(32, 0x1), (32, 0x2), (32, 0x3), (32, 0x13), (16, 0x1), (16, 0x12), (16, 0x3), (16, 0x4), (16, 0x5), (16, 0x6),
      (16, 0x7), (16, 0x8), (16, 0x9), (16, 0xA)] : List (Nat × Nat)).all fun w =>
      (after (step (State.reset.withFetchWord w.1 w.2))).isSome) = true := by decide +kernel

/-! ## The host side -/

/-- P3 steps 12 to 14: in FAULTED a store is ignored and a load returns the value. -/
theorem test_faulted_store_and_load :
    (after (step { idleOn plat with phase := .faulted, init := 0x1234#32, bus := [.store .init 0x5678#32] })).map
      (fun t => (t.init, t.bus)) = some (0x1234#32, []) ∧
    (after (step { idleOn plat with phase := .faulted, init := 0x1234#32, bus := [.load .init] })).map
      (fun t => t.loads) = some [0x1234#32] := by decide +kernel

/-- P6: reset in the middle of a TBLGEN. -/
theorem test_reset_step :
    (after (step { idleOn plat with phase := .tgen, bus := [.reset] })).map
      (fun t => (t.statusWord, t.result, t.mem)) = some (1#32, 0#32, digits 0x1000) := by decide +kernel

/-- 10_state.md R23's offsets: a word access, a byte access, an unaligned one, one that straddles the end, one outside. -/
theorem test_route :
    route plat 0x4000000C .four = .reg .result ∧ route plat 0x4000003C .four = .reg (.reserved 5) ∧
    route plat 0x4000000C .one = .malformed ∧ route plat 0x4000000E .four = .malformed ∧
    route plat 0x4000003C .eight = .malformed ∧ route plat 0x40000040 .four = .outside ∧
    route plat 0x3FFFFFFE .two = .outside ∧ route plat 0x3FFFFFFE .four = .malformed := by decide +kernel

/-- R8: `CRC_BASE` has ADDR_W bits. -/
theorem test_crcBase_width :
    blockBase { platAt 0x7FFFFFFC0#64 with addrW := .w32 } = 0xFFFFFFC0 ∧
    blockBase (platAt 0x7FFFFFFC0#64) = 0x7FFFFFFC0 := by decide +kernel

/-- §8's bus encodings of `crc.setbuf 0x4000, 10` (P2 step 4) and `crc.available`. -/
theorem test_host_programs :
    crcSetbuf 0x4000#64 10#64 =
      [.store .addrLo 0x4000#32, .store .addrHi 0#32, .store .lenLo 0xA#32, .store .lenHi 0#32] ∧
    crcAvailable = [.store .cmd 1#32, .load .result] ∧
    crcCalculate true 0x4000#64 10#64 5#32 = crcSetbuf 0x4000#64 10#64 ++
      [.store .init 5#32, .store .cmd 0x413#32, .poll, .load .status, .load .result] := by decide +kernel

/-- R104's `crc.wait`: while `STATUS` [0] is 1 the loop goes on, the sequencer stepping before the next load; when it
is 0 the loop is over. -/
theorem test_poll :
    (after (step { calcAt .calcSw 0#32 0x1000 9 with bus := [.poll, .load .result] })).map
      (fun t => (t.loads, t.bus)) = some ([3#32], [.engine, .poll, .load .result]) ∧
    (after (step { idleOn plat with bus := [.poll, .load .result] })).map
      (fun t => (t.loads, t.bus)) = some ([2#32], [.load .result]) := by decide +kernel

/-! ## The hypotheses of the obligations can be met -/

theorem built_idleOn (p : Platform) : ∀ j i, entryBuilt (idleOn p).table j i := fun j i => Table.get_built j i

/-- An idle block meets the invariant, whatever waits on its bus. -/
theorem inv_idle (p : Platform) (b : List BusEvent) : BlockInv { idleOn p with bus := b } where
  memWf := by show Memory.wf (digits 0x1000) = true; decide +kernel
  ready := by constructor <;> intro <;> first | rfl | exact (nomatch ·)
  tableDone := fun _ j i => Table.get_built j i
  tablePart := fun h => nomatch h
  errFault := by constructor <;> exact (nomatch ·)
  errBusy := fun _ => rfl
  hwOnly := fun h => nomatch h
  calcLen := fun h => nomatch h
  calcRange := fun h => nomatch h
  calcFirst := fun h => nomatch h
  calcFold := fun h => nomatch h
  narrow := fun _ => ⟨rfl, rfl, rfl⟩

theorem addr_idleOn : (idleOn plat).addr = 0x1000 := by decide +kernel

theorem len_idleOn : (idleOn plat).len = 9 := by decide +kernel

/-- A CALC in its loop meets the invariant when what remains of the buffer folds to the check value's register. -/
theorem inv_calc {ph : Phase} {acc : Word} {ptr rem : Nat} (b : List BusEvent) (hp : ph.inCalc = true)
    (ha : 0x1000 ≤ ptr) (hr : ptr + rem = 0x1009)
    (hf : fold acc (bytesAt (digits 0x1000) ptr rem) = fold 0xFFFFFFFF#32 (bytesAt (digits 0x1000) 0x1000 9)) :
    BlockInv { calcAt ph acc ptr rem with bus := b } where
  memWf := by show Memory.wf (digits 0x1000) = true; decide +kernel
  ready := ⟨fun _ h => (by change ph = _ at h; subst h; cases hp), fun _ => rfl⟩
  tableDone := fun _ j i => Table.get_built j i
  tablePart := fun h => by change ph = _ at h; subst h; cases hp
  errFault := Iff.intro (fun h => nomatch h) (fun h => by change ph = _ at h; subst h; cases hp)
  errBusy := fun _ => rfl
  hwOnly := fun _ => (by decide +kernel : hwPresent plat = true)
  calcLen := fun _ => (by rw [len_idleOn]; decide : 0 < (idleOn plat).len)
  calcRange := fun _ => (by rw [addr_idleOn, len_idleOn]; exact ⟨ha, hr, by decide +kernel⟩ :
    (idleOn plat).addr ≤ ptr ∧ ptr + rem = (idleOn plat).addr + (idleOn plat).len ∧
      (idleOn plat).addr + (idleOn plat).len ≤ addrSpace plat)
  calcFirst := fun _ h => nomatch h
  calcFold := fun _ _ _ => (by rw [addr_idleOn, len_idleOn]; exact hf :
    fold acc (bytesAt (digits 0x1000) ptr rem)
      = fold (not32 0#32) (bytesAt (digits 0x1000) (idleOn plat).addr (idleOn plat).len))
  narrow := fun _ => ⟨rfl, rfl, rfl⟩

/-- The start of a reset build meets the invariant. -/
theorem inv_reset (p : Platform) : BlockInv (State.resetOn p) where
  memWf := rfl
  ready := Iff.intro (fun h => nomatch h) (fun h => absurd rfl h)
  tableDone := fun h => nomatch h
  tablePart := fun _ j i h => absurd h (Nat.not_lt_zero _)
  errFault := by constructor <;> exact (nomatch ·)
  errBusy := fun _ => rfl
  hwOnly := fun h => nomatch h
  calcLen := fun h => nomatch h
  calcRange := fun h => nomatch h
  calcFirst := fun h => nomatch h
  calcFold := fun h => nomatch h
  narrow := fun _ => ⟨rfl, rfl, rfl⟩

/-- A state the step of which answers a next state. -/
def StepsOn (s : State) : Prop := ∃ t, step s = .next t

theorem issues_withCmd (w : Word) (p : Platform) : issues w (withCmd w p) := ⟨rfl, [], rfl⟩

/-! ### Encoding -/

theorem witness_DecodeOfEncode : Instr.wf (.uTgSlice 1#3 0#8) = true ∧ Instr.wf (.uTgSlice 7#3 255#8) = true ∧
    Instr.wf (.calcHw .absent .other .notU32) = true := by decide

theorem witness_EncodeOfDecode : decode (.command 0x00000BB3#32) = .error .reservedBits ∧
    decode (.command 0x00000B93#32) = .ok (.calcHw .absent .other .notU32) ∧
    decode (.label 0xFF72#16) = .ok (.uTgSlice 7#3 255#8) := by decide

theorem witness_CommandDecodeFunction :
    decodeCommand 1#32 = .ok .featq ∧ decodeCommand 2#32 = .ok .tblgen ∧
    decodeCommand 0xB83#32 = .ok (.calcSw .absent .other .notU32) ∧
    decodeCommand 0x13#32 = .ok (.calcHw .bool .bytes .default) ∧
    issues 0xFFFFFFFF#32 (withCmd 0xFFFFFFFF#32 plat) ∧ decodeCommand 0xFFFFFFFF#32 = .error .reservedBits :=
  ⟨by decide, by decide, by decide, by decide, issues_withCmd _ _, by decide⟩

theorem witness_ReservedWordsAreIllegal :
    decodeCommand 0x23#32 = .error .reservedBits ∧ decodeCommand 0x1003#32 = .error .reservedBits ∧
    decodeCommand 0#32 = .error .reservedOp ∧ decodeCommand 4#32 = .error .reservedOp ∧
    decodeCommand 0x801#32 = .error .operandBits ∧ decodeCommand 0xC3#32 = .error .reservedFlagKind ∧
    decodeCommand 0xC03#32 = .error .reservedInitKind := by decide

/-! ### Steps -/

theorem witness_StepRunsIssuedCommand :
    issues 0x513#32 (withCmd 0x513#32 plat) ∧ decodeCommand 0x513#32 = .ok (.calcHw .bool .text .u32) :=
  ⟨issues_withCmd _ _, by decide⟩

theorem witness_StepRunsScheduledMicroOp :
    (nextUop (State.resetOn plat) = some (.uTgBase 0#8) ∧ (State.resetOn plat).bus = []) ∧
    (nextUop { calcAt .calcHw 0#32 0x1000 9 with bus := [.engine] } = some .uHwFold8 ∧
      (State.bus { calcAt .calcHw 0#32 0x1000 9 with bus := [.engine] }) = .engine :: []) ∧
    (nextUop { calcAt .calcSw 0#32 0x1008 1 with bus := [.store .cmd 3#32] } = some .uSwByte ∧
      (State.bus { calcAt .calcSw 0#32 0x1008 1 with bus := [.store .cmd 3#32] }) = .store .cmd 3#32 :: []) :=
  ⟨⟨rfl, rfl⟩, ⟨rfl, rfl⟩, ⟨rfl, rfl⟩⟩

theorem witness_SchedulePicksMicroOp :
    (idleOn plat).phase = .idle ∧ (State.resetOn plat).phase = .resetTgen ∧
    ((calcAt .calcHw 0#32 0x1000 9).phase.inCalc = true ∧ (calcAt .calcHw 0#32 0x1000 9).stage = .loop) ∧
    (State.stage { calcAt .calcSw 0#32 0x1000 9 with stage := .first } = .first) ∧
    ((calcAt .calcSw 0#32 0x1009 0).rem = 0) ∧
    (0 < (calcAt .calcSw 0#32 0x1001 8).rem ∧ (calcAt .calcSw 0#32 0x1001 8).ptr % 8 ≠ 0) ∧
    ((calcAt .calcSw 0#32 0x1008 7).rem < 8 ∧ (calcAt .calcSw 0#32 0x1008 7).ptr % 8 = 0) ∧
    (8 ≤ (calcAt .calcSw 0#32 0x1000 8).rem ∧ (calcAt .calcSw 0#32 0x1000 8).ptr % 8 = 0) := by decide

theorem witness_BuildOrderAndEnd :
    (254#8 : BitVec 8) ≠ 255#8 ∧ (6#3 : BitVec 3) ≠ 7#3 ∧ StepsOn (idleOn plat) ∧ (idleOn plat).tblReady = true ∧
    StepsOn { idleOn plat with bus := [.reset] } := ⟨by decide, by decide, ⟨_, rfl⟩, rfl, ⟨_, rfl⟩⟩

theorem witness_StepStopsOnlyOnTheseEvents :
    step { idleOn plat with bus := [.memWrite (2 ^ 64) 0#8] } = .fault .noSuchAddress ∧
    step { idleOn plat with bus := [.subword] } = .refused .regSubword := ⟨rfl, rfl⟩

/-! ### FEATQ, TBLGEN and the table -/

theorem witness_FeatqReportsHwPresent :
    ((idleOn plat).phase = .idle ∧ (idleOn plat).tblReady = true ∧ plat.cpuidAvailable = true ∧
      plat.featureWord = 0x00100000#32 ∧ ∃ t, exec .featq (idleOn plat) = .next t) ∧
    (issues 0x11#32 (withCmd 0x11#32 plat) ∧ (0x11#32).extractLsb' 0 4 = 1#4 ∧ 0x11#32 ≠ 1#32) ∧
    (issues 0x80000001#32 (withCmd 0x80000001#32 plat) ∧ (0x80000001#32).extractLsb' 0 4 = 1#4) :=
  ⟨⟨rfl, rfl, rfl, rfl, _, rfl⟩, ⟨issues_withCmd _ _, by decide, by decide⟩, issues_withCmd _ _, by decide⟩

theorem witness_FeatqIsStable : ∃ t, steps 3 (State.resetOn platNoHw) = .next t :=
  let ⟨t, h, _⟩ := next_of (fun _ => true) (by decide +kernel : (after (steps 3 (State.resetOn platNoHw))).any _ = true)
  ⟨t, h⟩

theorem witness_TblgenRebuildsSameTable :
    BlockInv (withCmd 2#32 plat) ∧ (withCmd 2#32 plat).phase = .idle ∧
    (withCmd 2#32 plat).bus = [.store .cmd 0x00000002#32] ∧ 2047 < 2048 :=
  ⟨inv_idle plat _, rfl, rfl, by decide⟩

theorem witness_UTgBaseWritesEntry : ¬((1#3 : BitVec 3) = 0#3 ∧ (255#8 : BitVec 8) = 255#8) := by decide

theorem witness_USliceWritesEntry :
    (7#3 : BitVec 3) ≠ 0#3 ∧ (1#3 : BitVec 3) ≠ 0#3 ∧
    ((idleOn plat).table.get 0#3 1#8 = 0xF26B8303#32 ∧ (idleOn plat).table.get 0#3 3#8 = 0x1350F3F4#32 ∧
      ∃ t, exec (.uTgSlice 1#3 1#8) (idleOn plat) = .next t) :=
  ⟨by decide, by decide, by decide +kernel, by decide +kernel, _, rfl⟩

theorem witness_ResetBuildFillsTable :
    (State.resetOn plat).phase = .resetTgen ∧ (State.resetOn plat).tgJ = 0#3 ∧ (State.resetOn plat).tgI = 0#8 ∧
    (State.resetOn plat).bus = [] := ⟨rfl, rfl, rfl, rfl⟩

/-! ### Acceptance of a CALC -/

/-- V-ERR-1, -2, -3, -4 and -5: each of the five conditions alone. -/
theorem witness_CalcRejectsBadArguments :
    (idleOn plat).phase = .idle ∧
    (([(.notBool, .bytes, .default), (.bool, .bytes, .notU32), (.bool, .absent, .default), (.absent, .bytes, .default),
      (.bool, .other, .default)] : List (FlagKind × DataKind × InitKind)).all fun x =>
      decide (x.1 = .notBool ∨ x.1 = .absent ∨ x.2.1 = .absent ∨ x.2.1 = .other ∨ x.2.2 = .notU32)) = true :=
  ⟨rfl, by decide⟩

/-- V-ERR-23 and V-ERR-25: the sums just above the bound, on both widths. -/
theorem witness_CalcRejectsWrappingBuffer :
    (State.phase { idleOn plat with addrHi := 0xFFFFFFFF#32, addrLo := 0xFFFFFFF8#32 } = .idle ∧
      2 ^ 64 + 1 = State.addr { idleOn plat with addrHi := 0xFFFFFFFF#32, addrLo := 0xFFFFFFF8#32 }
        + State.len { idleOn plat with addrHi := 0xFFFFFFFF#32, addrLo := 0xFFFFFFF8#32 }) ∧
    (2 ^ 32 + 1 = State.addr { idleOn plat32 with addrLo := 0xFFFFFFFC#32, lenLo := 5#32 }
        + State.len { idleOn plat32 with addrLo := 0xFFFFFFFC#32, lenLo := 5#32 }) :=
  ⟨⟨rfl, by decide +kernel⟩, by decide +kernel⟩

/-- The sum at the bound exactly, and a host without the CPU-identification query. -/
theorem witness_CalcHwFaultsWithoutPath :
    ((idleOn platNoHw).addr + (idleOn platNoHw).len ≤ 2 ^ 64 ∧ hwPresent platNoHw = false) ∧
    (State.addr { idleOn platNoHw with addrHi := 0xFFFFFFFF#32, addrLo := 0xFFFFFFF7#32 }
        + State.len { idleOn platNoHw with addrHi := 0xFFFFFFFF#32, addrLo := 0xFFFFFFF7#32 } = 2 ^ 64) ∧
    ¬(Platform.cpuidAvailable { plat with cpuidAvailable := false } = true ∧ plat.featureWord.getLsbD 20 = true) :=
  ⟨by decide +kernel, by decide +kernel, by decide +kernel⟩

theorem witness_ZeroLengthReturnsInitial :
    State.phase { idleOn plat with lenLo := 0#32 } = .idle ∧ State.len { idleOn plat with lenLo := 0#32 } = 0 ∧
    hwPresent (State.cfg { idleOn plat with lenLo := 0#32 }) = true := ⟨rfl, by decide +kernel, by decide +kernel⟩

/-- The shortest buffer, ending at the top of memory, and one of 9 bytes. -/
theorem witness_CalcStarts :
    ((idleOn plat).addr + (idleOn plat).len ≤ 2 ^ 64 ∧ 0 < (idleOn plat).len ∧ hwPresent plat = true) ∧
    (State.addr { idleOn plat with addrHi := 0xFFFFFFFF#32, addrLo := 0xFFFFFFFF#32, lenLo := 1#32 }
        + State.len { idleOn plat with addrHi := 0xFFFFFFFF#32, addrLo := 0xFFFFFFFF#32, lenLo := 1#32 } = 2 ^ 64 ∧
      State.len { idleOn plat with addrHi := 0xFFFFFFFF#32, addrLo := 0xFFFFFFFF#32, lenLo := 1#32 } = 1) := by
  decide +kernel

/-! ### The micro-ops of a CALC -/

theorem witness_UInitLoadsInverted :
    (State.phase { calcAt .calcHw 0#32 0x1000 9 with stage := .first }).inCalc = true ∧
    (∃ t, exec .uInit { idleOn plat with initLatch := 0#32 } = .next t) ∧
    (∃ t, exec .uInit { idleOn plat with initLatch := 0xFFFFFFFF#32 } = .next t) ∧
    (∃ t, exec .uInit { idleOn plat with initLatch := 0x12345678#32 } = .next t) := ⟨rfl, ⟨_, rfl⟩, ⟨_, rfl⟩, _, rfl⟩

/-- One byte left, at the top of memory; not admitted; and the two value clauses. -/
theorem witness_USwByteFoldsOneByte :
    (1 ≤ (calcAt .calcSw 0#32 (2 ^ 64 - 1) 1).rem ∧ memAdmit plat (2 ^ 64 - 1) .one = true) ∧
    memAdmit (platTo 0x6000) 0x6000 .one = false ∧
    ((foldOf 0xFFFFFFFF#32 [(0x1000, 0x31#8)] 1).acc = 0xFFFFFFFF#32 ∧
      (foldOf 0xFFFFFFFF#32 [(0x1000, 0x31#8)] 1).mem.read 0x1000 = 0x31#8 ∧ memAdmit plat 0x1000 .one = true) ∧
    (foldOf 0#32 [] 1).mem.read 0x1000 = 0#8 ∧
    (∃ t, exec .uSwByte (foldOf 0xFFFFFFFF#32 [(0x1000, 0x31#8)] 1) = .next t) ∧
    (∀ j i, entryBuilt (foldOf 0xFFFFFFFF#32 [(0x1000, 0x31#8)] 1).table j i) :=
  ⟨by decide +kernel, by decide +kernel, by decide +kernel, by decide +kernel, ⟨_, rfl⟩, built_idleOn plat⟩

/-- Eight bytes left, the last eight of memory; not admitted; and the two value clauses. -/
theorem witness_USwSlice8FoldsEightBytes :
    (8 ≤ (calcAt .calcSw 0#32 (2 ^ 64 - 8) 8).rem ∧ memAdmit plat (2 ^ 64 - 8) .eight = true) ∧
    memAdmit (platTo 0x6000) 0x5FF9 .eight = false ∧
    (∀ n, n < 8 → (0x3837363534333231#64).extractLsb' (8 * n) 8 = Memory.read (digits 0x1000) (0x1000 + n)) ∧
    (∀ n, n < 8 → (0#64).extractLsb' (8 * n) 8 = Memory.read [] (0x1000 + n)) ∧
    memAdmit plat 0x1000 .eight = true ∧
    (∃ t, exec .uSwSlice8 (foldOf 0xFFFFFFFF#32 (digits 0x1000) 8) = .next t) ∧
    (∀ j i, entryBuilt (foldOf 0xFFFFFFFF#32 (digits 0x1000) 8).table j i) :=
  ⟨by decide +kernel, by decide +kernel, by decide +kernel, by decide +kernel, by decide +kernel, ⟨_, rfl⟩,
    built_idleOn plat⟩

theorem witness_UHwFold1FoldsOneByte :
    (1 ≤ (calcAt .calcHw 0#32 (2 ^ 64 - 1) 1).rem ∧ memAdmit plat (2 ^ 64 - 1) .one = true) ∧
    memAdmit (platTo 0x6000) 0x6000 .one = false ∧ (∀ j i, entryBuilt (idleOn plat).table j i) :=
  ⟨by decide +kernel, by decide +kernel, built_idleOn plat⟩

theorem witness_UHwFold2FoldsTwoBytes :
    (2 ≤ (calcAt .calcHw 0#32 (2 ^ 64 - 2) 2).rem ∧ memAdmit plat (2 ^ 64 - 2) .two = true) ∧
    memAdmit (platTo 0x6000) 0x5FFF .two = false := by decide +kernel

theorem witness_UHwFold4FoldsFourBytes :
    (4 ≤ (calcAt .calcHw 0#32 (2 ^ 64 - 4) 4).rem ∧ memAdmit plat (2 ^ 64 - 4) .four = true) ∧
    (∀ n, n < 4 → (0x34333231#32).extractLsb' (8 * n) 8 = Memory.read (digits 0x1000) (0x1000 + n)) ∧
    memAdmit (platTo 0x6000) 0x5FFD .four = false := by decide +kernel

theorem witness_UHwFold8FoldsEightBytes :
    (8 ≤ (calcAt .calcHw 0#32 (2 ^ 64 - 8) 8).rem ∧ memAdmit plat (2 ^ 64 - 8) .eight = true) ∧
    memAdmit (platTo 0x6000) 0x5FF9 .eight = false ∧ (∀ j i, entryBuilt (idleOn plat).table j i) :=
  ⟨by decide +kernel, by decide +kernel, built_idleOn plat⟩

theorem witness_RemBelowWidthIsFree :
    (readWidth .uSwByte = some .one ∧ (calcAt .calcSw 0#32 0x1000 0).rem < 1 ∧ memAdmit plat 0x1000 .one = true) ∧
    (readWidth .uHwFold8 = some .eight ∧ (calcAt .calcHw 0#32 0x1000 7).rem < 8 ∧ 8 ≤ 8 ∧
      memAdmit plat 0x1000 .eight = true) := by decide +kernel

theorem witness_UFinalDeliversResult :
    (calcAt .calcSw 0x1CF96D7C#32 0x1009 0).raced = false ∧
    (∃ t, exec .uFinal (calcAt .calcSw 0x1CF96D7C#32 0x1009 0) = .next t) ∧
    (∃ t, exec .uFinal (calcAt .calcSw 0xFFFFFFFF#32 0x1009 0) = .next t) := ⟨rfl, ⟨_, rfl⟩, _, rfl⟩

theorem witness_RacedCalcDeliversFreeValue :
    State.raced { calcAt .calcSw 0#32 0x1009 0 with raced := true } = true := rfl

/-! ### The schedules and the checksum -/

theorem witness_HwWidthIsLargestAlignedChunk :
    0 < 1 ∧ (hwWidth 0x1001 1, hwWidth 0x1002 7, hwWidth 0x1004 7, hwWidth 0x1008 8) = (.one, .two, .four, .eight) := by
  decide

theorem witness_SwScheduleShape :
    (swNext 0x1008 0, swNext 0x1008 7, swNext 0x1001 8, swNext 0x1008 8) = (.uFinal, .uSwByte, .uSwByte, .uSwSlice8) ∧
    (0 < 1 ∧ 1 = min 1 ((8 - 0x1001 % 8) % 8)) ∧ (0 < 9 ∧ 0 = min 9 ((8 - 0x1000 % 8) % 8)) ∧
    (0 < 9 ∧ 7 = min 9 ((8 - 0x1001 % 8) % 8)) := by decide

theorem witness_BufferReadsAlignedAndInside :
    (BlockInv (calcAt .calcSw 0xFFFFFFFF#32 0x1000 9) ∧
      nextUop (calcAt .calcSw 0xFFFFFFFF#32 0x1000 9) = some .uSwSlice8 ∧ readWidth .uSwSlice8 = some .eight) ∧
    (BlockInv (calcAt .calcHw 0x9F787F65#32 0x1008 1) ∧
      nextUop (calcAt .calcHw 0x9F787F65#32 0x1008 1) = some .uHwFold1 ∧ readWidth .uHwFold1 = some .one) :=
  ⟨⟨inv_calc [] rfl (by decide) (by decide) rfl, rfl, rfl⟩,
    ⟨inv_calc [] rfl (by decide) (by decide) (by decide +kernel), rfl, rfl⟩⟩

theorem witness_ByteStepIsTableFree :
    (∀ j i, entryBuilt (idleOn plat).table j i) ∧ 1 ≤ (calcAt .calcSw 0#32 0x1008 1).rem ∧
    memAdmit plat 0x1008 .one = true := ⟨built_idleOn plat, by decide, by decide +kernel⟩

theorem witness_SliceIsEightByteSteps : ∀ j i, entryBuilt Table.built j i := fun j i => Table.get_built j i

theorem witness_MemReadIsLittleEndian : 0 < 1 ∧ 7 < 8 := by decide

theorem plat_admits {s : State} (h : s.cfg = plat) (hr : s.addr + s.len ≤ 2 ^ 64) : bufferAdmitted s := by
  intro a w _ h2
  have h3 : a + w.bytes ≤ 2 ^ 64 := le_trans h2 hr
  rw [h]
  have h4 : ([.one, .two, .four, .eight] : List ReadWidth).contains w = true := by cases w <;> rfl
  simp only [memAdmit, plat, platTo, List.any_cons, List.any_nil, Bool.or_false, regionAdmits, h4, Bool.and_true,
    Bool.and_eq_true, decide_eq_true_eq]
  omega

theorem witness_CalcSwComputesCrc32c :
    BlockInv (withCmd 0x403#32 plat) ∧ (withCmd 0x403#32 plat).phase = .idle ∧
    (withCmd 0x403#32 plat).bus = [.store .cmd 0x403#32] ∧ decodeCommand 0x403#32 = .ok (.calcSw .bool .bytes .u32) ∧
    (withCmd 0x403#32 plat).addr + (withCmd 0x403#32 plat).len ≤ 2 ^ (withCmd 0x403#32 plat).cfg.addrW.bits ∧
    0 < (withCmd 0x403#32 plat).len ∧ bufferAdmitted (withCmd 0x403#32 plat) ∧
    3 < swMicroOps (withCmd 0x403#32 plat).addr (withCmd 0x403#32 plat).len :=
  ⟨inv_idle plat _, rfl, rfl, by decide, by decide +kernel, by decide +kernel, plat_admits rfl (by decide +kernel),
    by decide +kernel⟩

theorem witness_CalcHwComputesCrc32c :
    BlockInv (withCmd 0x113#32 plat) ∧ (withCmd 0x113#32 plat).phase = .idle ∧
    (withCmd 0x113#32 plat).bus = [.store .cmd 0x113#32] ∧
    decodeCommand 0x113#32 = .ok (.calcHw .bool .text .default) ∧
    (withCmd 0x113#32 plat).addr + (withCmd 0x113#32 plat).len ≤ 2 ^ (withCmd 0x113#32 plat).cfg.addrW.bits ∧
    0 < (withCmd 0x113#32 plat).len ∧ hwPresent (withCmd 0x113#32 plat).cfg = true ∧
    bufferAdmitted (withCmd 0x113#32 plat) ∧
    3 < hwMicroOps (withCmd 0x113#32 plat).addr (withCmd 0x113#32 plat).len :=
  ⟨inv_idle plat _, rfl, rfl, by decide, by decide +kernel, by decide +kernel, by decide +kernel,
    plat_admits rfl (by decide +kernel), by decide +kernel⟩

/-- The end of a CALC of either path. -/
theorem witness_EveryFinalDeliversCrc32c :
    (BlockInv (calcAt .calcSw 0x1CF96D7C#32 0x1009 0) ∧ (calcAt .calcSw 0x1CF96D7C#32 0x1009 0).raced = false ∧
      engineHasTurn (calcAt .calcSw 0x1CF96D7C#32 0x1009 0) ∧
      nextUop (calcAt .calcSw 0x1CF96D7C#32 0x1009 0) = some .uFinal ∧
      StepsOn (calcAt .calcSw 0x1CF96D7C#32 0x1009 0)) ∧
    (BlockInv { calcAt .calcHw 0x1CF96D7C#32 0x1009 0 with bus := [.store .init 0#32] } ∧
      engineHasTurn { calcAt .calcHw 0x1CF96D7C#32 0x1009 0 with bus := [.store .init 0#32] } ∧
      nextUop { calcAt .calcHw 0x1CF96D7C#32 0x1009 0 with bus := [.store .init 0#32] } = some .uFinal ∧
      StepsOn { calcAt .calcHw 0x1CF96D7C#32 0x1009 0 with bus := [.store .init 0#32] }) :=
  ⟨⟨inv_calc [] rfl (by decide) (by decide) (by decide +kernel), rfl, .inl rfl, rfl, ⟨_, rfl⟩⟩,
    ⟨inv_calc _ rfl (by decide) (by decide) (by decide +kernel), .inr (.inr ⟨rfl, _, _, _, rfl⟩), rfl, ⟨_, rfl⟩⟩⟩

/-! ### Whole-machine rules -/

/-- States of every kind that meet the invariant, and steps from them. -/
theorem witness_StepKeepsInvariant :
    (BlockInv (State.resetOn plat) ∧ StepsOn (State.resetOn plat)) ∧
    (BlockInv (withCmd 0x13#32 plat) ∧ StepsOn (withCmd 0x13#32 plat)) ∧
    (BlockInv (calcAt .calcSw 0xFFFFFFFF#32 0x1000 9) ∧ StepsOn (calcAt .calcSw 0xFFFFFFFF#32 0x1000 9)) ∧
    (BlockInv (calcAt .calcHw 0x1CF96D7C#32 0x1009 0) ∧ StepsOn (calcAt .calcHw 0x1CF96D7C#32 0x1009 0)) :=
  ⟨⟨inv_reset plat, _, rfl⟩, ⟨inv_idle plat _, _, rfl⟩, ⟨inv_calc [] rfl (by decide) (by decide) rfl, _, rfl⟩,
    ⟨inv_calc [] rfl (by decide) (by decide) (by decide +kernel), _, rfl⟩⟩

theorem witness_EngineOnlyReadsMemoryInCalc :
    (StepsOn (calcAt .calcSw 0#32 0x1000 9) ∧
      ¬∃ a b rest, (calcAt .calcSw 0#32 0x1000 9).bus = .memWrite a b :: rest) ∧
    ((withCmd 3#32 plat).phase.inCalc = false ∧ ¬∃ a b rest, (withCmd 3#32 plat).bus = .memWrite a b :: rest) :=
  ⟨⟨⟨_, rfl⟩, fun ⟨_, _, _, h⟩ => nomatch h⟩, rfl, fun ⟨_, _, _, h⟩ => nomatch h⟩

/-- A reset build at entry 0x80 of slice 0, on a table of zeros. -/
def midBuild : State :=
  { State.resetOn plat with tgI := 0x80#8, table := Vector.replicate 8 (Vector.replicate 256 0#32) }

theorem witness_TableWritersAndReaders :
    (∃ t, step midBuild = .next t ∧ t.table ≠ midBuild.table) ∧
    ((∀ x, Instr.uFinal ≠ .uTgBase x) ∧ (∀ j x, Instr.uFinal ≠ .uTgSlice j x) ∧ Instr.uFinal ≠ .uSwByte ∧
      Instr.uFinal ≠ .uSwSlice8) :=
  let ⟨t, h, hp⟩ := next_of (fun t => t.table.get 0#3 0x80#8 == 0x82F63B78#32)
    (by decide +kernel : (after (step midBuild)).any _ = true)
  ⟨⟨t, h, fun he => by rw [he] at hp; revert hp; decide +kernel⟩,
    ⟨fun _ => nofun, fun _ _ => nofun, nofun, nofun⟩⟩

theorem witness_FaultedUntilReset :
    State.phase { idleOn plat with phase := .faulted } = .faulted ∧
    StepsOn { idleOn plat with phase := .faulted, bus := [.reset] } := ⟨rfl, _, rfl⟩

/-- A CALC.HW without the path (V-ERR-18), and V-MF-1's and V-MF-2's reads. -/
theorem witness_OnlyTheseStepsFault :
    (∃ t, step (withCmd 0x13#32 platNoHw) = .next t ∧ t.phase = .faulted ∧ t.err = .hwPathUnsupported) ∧
    (∃ t, step { calcAt .calcSw 0#32 0x6000 5 with cfg := platTo 0x6000 } = .next t ∧ t.phase = .faulted ∧
      t.err = .memoryFault) ∧
    (∃ t, step { calcAt .calcHw 0#32 0x6000 5 with cfg := platTo 0x6000 } = .next t ∧ t.phase = .faulted ∧
      t.err = .memoryFault) :=
  ⟨⟨_, rfl, rfl, rfl⟩, ⟨_, rfl, rfl, rfl⟩, ⟨_, rfl, rfl, rfl⟩⟩

/-- Reset, FEATQ, a zero-length CALC on either path, and U_FINAL, each changing `RESULT` from 0xAAAA. -/
theorem witness_OnlyTheseStepsWriteResult :
    (∃ t, step { idleOn plat with bus := [.reset] } = .next t ∧ t.result = 0#32) ∧
    (∃ t, step (withCmd 1#32 plat) = .next t ∧ t.result = 1#32) ∧
    (∃ t, step { withCmd 3#32 plat with lenLo := 0#32 } = .next t ∧ t.result = 0#32) ∧
    (∃ t, step { withCmd 0x13#32 plat with lenLo := 0#32 } = .next t ∧ t.result = 0#32) ∧
    (∃ t, step (calcAt .calcSw 0x1CF96D7C#32 0x1009 0) = .next t ∧ t.result = 0xE3069283#32) :=
  ⟨⟨_, rfl, rfl⟩, ⟨_, rfl, rfl⟩, ⟨_, rfl, rfl⟩, ⟨_, rfl, rfl⟩, ⟨_, rfl, rfl⟩⟩

theorem witness_HostStoresTakeEffect :
    (State.phase { idleOn plat with phase := .faulted, bus := [.store .cmd 1#32] } = .faulted) ∧
    (State.phase { calcAt .calcSw 0#32 0x1000 9 with bus := [.store .init 1#32] }).busy = true ∧
    (∀ (p : Platform) (r : Reg) (v : Word), (State.bus { idleOn p with bus := [.store r v] }) = .store r v :: [] ∧
      State.phase { idleOn p with bus := [.store r v] } = .idle) ∧
    plat.addrW = .w64 ∧ plat32.addrW = .w32 ∧ decodeCommand 1#32 = .ok .featq ∧
    decodeCommand 0#32 = .error .reservedOp :=
  ⟨rfl, rfl, fun _ _ _ => ⟨rfl, rfl⟩, rfl, rfl, by decide, by decide⟩

theorem witness_HostLoadsReturnCurrentValue :
    (State.bus { calcAt .calcSw 0#32 0x1000 9 with bus := [.load .result] }) = .load .result :: [] ∧
    (∃ t, step (calcAt .calcSw 0#32 0x1000 9) = .next t ∧ t.phase.busy = true) ∧
    ¬∃ rest, (calcAt .calcSw 0#32 0x1000 9).bus = .reset :: rest :=
  ⟨rfl, ⟨_, rfl, rfl⟩, fun ⟨_, h⟩ => nomatch h⟩

theorem witness_RegistersReadAsTheMapSays : (idleOn plat).cfg.addrW = .w64 ∧ (idleOn plat32).cfg.addrW = .w32 :=
  ⟨rfl, rfl⟩

theorem witness_ResetGivesResetValues :
    (State.bus { calcAt .calcHw 0#32 0x1000 9 with bus := [.reset, .load .status] }) = .reset :: [.load .status] := rfl

/-- The first and the last address of memory, the first that does not exist, and the ends of a running CALC's
buffer. -/
theorem witness_MemoryWritesByOthers :
    (digits 0x1000).wf = true ∧ 0 < 2 ^ plat.addrW.bits ∧ 2 ^ 64 - 1 < 2 ^ plat.addrW.bits ∧
    2 ^ plat.addrW.bits ≤ 2 ^ 64 ∧
    (calcAt .calcSw 0#32 0x1000 9).phase.inCalc = true ∧
    (inBuffer (calcAt .calcSw 0#32 0x1000 9) 0x0FFF, inBuffer (calcAt .calcSw 0#32 0x1000 9) 0x1000,
      inBuffer (calcAt .calcSw 0#32 0x1000 9) 0x1008, inBuffer (calcAt .calcSw 0#32 0x1000 9) 0x1009)
      = (false, true, true, false) := by decide +kernel

/-- The block in the middle of the space, and at its top: its last byte the last address, and running past it. -/
theorem witness_AddressMapOfTheBlock :
    (route plat 0x40000000 .four = .reg .cmd ∧ route plat 0x4000003C .four = .reg (.reserved 5) ∧
      route plat 0x3FFFFFFC .four = .outside ∧ route plat 0x40000040 .one = .outside) ∧
    (blockBase (platAt 0xFFFFFFFFFFFFFFC0#64) + Reg.offset (.reserved 5) + 4 = 2 ^ 64 ∧
      route (platAt 0xFFFFFFFFFFFFFFC0#64) 0xFFFFFFFFFFFFFFFC .four = .reg (.reserved 5) ∧
      route (platAt 0xFFFFFFFFFFFFFFC0#64) (2 ^ 64) .one = .outside) ∧
    (blockBase (platAt 0xFFFFFFFFFFFFFFF8#64) + Reg.offset .status + 4 = 2 ^ 64 ∧
      route (platAt 0xFFFFFFFFFFFFFFF8#64) 0xFFFFFFFFFFFFFFFC .four = .reg .status ∧
      route (platAt 0xFFFFFFFFFFFFFFF8#64) (2 ^ 64) .four = .outside ∧
      route (platAt 0xFFFFFFFFFFFFFFF8#64) 0 .four = .outside) := by decide +kernel

/-- One state for each pseudo-instruction; `crc.calculate` on the 9 bytes at the top of memory. -/
theorem witness_HostProgramsOfR104 :
    (State.bus { idleOn plat with bus := crcSetbuf 0x4000#64 10#64 ++ [.load .status] })
      = crcSetbuf 0x4000#64 10#64 ++ [.load .status] ∧
    (State.bus { idleOn plat32 with bus := crcSetbuf 0x100000001#64 10#64 ++ [] })
      = crcSetbuf 0x100000001#64 10#64 ++ [] ∧
    (State.bus { idleOn platNoHw with bus := crcAvailable ++ [] }) = crcAvailable ++ [] ∧
    ((idleOn plat).phase = .idle ∧ plat.addrW = .w64 ∧ plat32.addrW = .w32) ∧
    (State.bus { State.resetOn plat with bus := [.poll] }) = .poll :: [] ∧
    (State.bus { calcAt .calcHw 0#32 0x1000 9 with bus := crcWait ++ [.load .result] }) = crcWait ++ [.load .result] ∧
    (BlockInv { idleOn plat with bus := crcCalculate true 0xFFFFFFFFFFFFFFF7#64 9#64 0#32 ++ [] } ∧
      (true = true → hwPresent plat = true) ∧
      (0xFFFFFFFFFFFFFFF7#64).toNat % 2 ^ plat.addrW.bits + (9#64).toNat % 2 ^ plat.addrW.bits = 2 ^ plat.addrW.bits ∧
      ∀ x w, x + ReadWidth.bytes w ≤ 2 ^ plat.addrW.bits → memAdmit plat x w = true) :=
  ⟨rfl, rfl, rfl, ⟨rfl, rfl, rfl⟩, rfl, rfl, inv_idle plat _, fun _ => by decide +kernel, by decide +kernel,
    fun x w h => by
      have : x + w.bytes ≤ 0 + 2 ^ 64 := by simpa [plat, platTo, AddrWidth.bits] using h
      cases w <;> simp [memAdmit, plat, platTo, regionAdmits] <;> simp [ReadWidth.bytes] at this ⊢ <;> omega⟩

end Sys2Proof.Tests
end

section
/-! The address map of the register block: how the offsets of R23 and `blockRegs` agree, what each answer of `route`
means, and the statement of 00_scope.md about it. -/

namespace Sys2Proof.Machine

/-! ## Offsets -/

/-- `blockRegs` lists each register at the place of its offset. -/
theorem blockRegs_getD_offset (r d : Reg) : blockRegs.getD (r.offset / 4) d = r := by
  cases r with
  | reserved k => fin_cases k <;> rfl
  | _ => rfl

theorem Reg.offset_mod_four (r : Reg) : r.offset % 4 = 0 := by
  cases r with
  | reserved k => simp only [Reg.offset]; omega
  | _ => rfl

theorem Reg.offset_add_four_le (r : Reg) : r.offset + 4 ≤ 0x40 := by
  cases r with
  | reserved k => simp only [Reg.offset]; omega
  | _ => decide

/-- Every aligned offset in the block is that of the register `blockRegs` lists there. -/
theorem offset_blockRegs_getD {i : Nat} (hi : i < 16) (d : Reg) : (blockRegs.getD i d).offset = 4 * i := by
  interval_cases i <;> rfl

/-! ## The answers of `route` -/

theorem le_blockEnd_iff {p : Platform} {x : Nat} :
    x ≤ blockEnd p ↔ x ≤ blockBase p + 0x40 ∧ x ≤ addrSpace p := Nat.le_min

theorem lt_blockEnd_iff {p : Platform} {x : Nat} :
    x < blockEnd p ↔ x < blockBase p + 0x40 ∧ x < addrSpace p := Nat.lt_min

/-- An access is outside exactly when it ends before the block or begins after it. -/
theorem route_eq_outside_iff {p : Platform} {a : Nat} {w : ReadWidth} :
    route p a w = .outside ↔ a + w.bytes ≤ blockBase p ∨ blockEnd p ≤ a := by
  unfold route
  split
  next h => simp [h]
  next h => split <;> simp [h]

/-- An access reaches a register exactly when it is the 32-bit access at that register's offset, all of it below the
top of the address space. -/
theorem route_eq_reg_iff {p : Platform} {a : Nat} {w : ReadWidth} {r : Reg} :
    route p a w = .reg r ↔ w = .four ∧ a = blockBase p + r.offset ∧ a + 4 ≤ addrSpace p := by
  have hmod := r.offset_mod_four
  have hle := r.offset_add_four_le
  constructor
  · intro h
    unfold route at h
    split at h
    next => cases h
    next =>
      split at h
      next hin =>
        obtain ⟨rfl, hbase, hend, halign⟩ := hin
        obtain ⟨hblock, htop⟩ := le_blockEnd_iff.1 hend
        simp only [ReadWidth.bytes] at hblock htop
        have hoff := offset_blockRegs_getD (i := (a - blockBase p) / 4) (by omega) (.reserved 5)
        rw [Target.reg.inj h] at hoff
        exact ⟨rfl, by omega, htop⟩
      next => cases h
  · rintro ⟨rfl, rfl, htop⟩
    have hend : blockBase p + r.offset + 4 ≤ blockEnd p := le_blockEnd_iff.2 ⟨by omega, htop⟩
    unfold route
    simp only [ReadWidth.bytes, Nat.add_sub_cancel_left, blockRegs_getD_offset]
    rw [if_neg (by omega), if_pos ⟨trivial, by omega, hend, hmod⟩]

/-- An access is outside exactly when it has no address in common with the block: neither interval is empty, so the
greater of their two starts is in both unless one ends before the other begins. -/
theorem route_eq_outside_iff_disjoint {p : Platform} {a : Nat} {w : ReadWidth} :
    route p a w = .outside ↔ ¬∃ x, a ≤ x ∧ x < a + w.bytes ∧ blockBase p ≤ x ∧ x < blockEnd p := by
  have hbytes := ReadWidth.bytes_pos w
  have hblock := blockBase_lt_blockEnd p
  rw [route_eq_outside_iff]
  constructor
  · rintro h ⟨x, hax, hxa, hbx, hxb⟩
    omega
  · intro h
    by_contra hno
    exact h ⟨max a (blockBase p), by omega, by omega, by omega, by omega⟩

/-- Settles O59: the register clauses are the two directions of `route_eq_reg_iff`, and an access is outside when it
has no byte of the block. -/
theorem addressMapOfTheBlock : Obligations.AddressMapOfTheBlock := by
  refine ⟨fun p => ⟨blockBase_lt p, rfl⟩, fun p r htop => ?_, fun p a w r h => ?_, fun p a w => ?_⟩
  · exact route_eq_reg_iff.2 ⟨rfl, rfl, htop⟩
  · exact route_eq_reg_iff.1 h
  · simpa only [lt_blockEnd_iff, addrSpace] using route_eq_outside_iff_disjoint (p := p)

end Sys2Proof.Machine
end

section
/-! The arithmetic of the checksum: the division step is linear and acts on the low byte only (42_table_generator.md
R131), so a lookup in a built table is `Div8`, and both table steps of the software path are the fold of the bytes they
read (43_software_engine.md R156, R157). -/

namespace Sys2Proof.Machine

/-! ## `Div8` -/

theorem divStep_xor (a b : Word) : divStep (a ^^^ b) = divStep a ^^^ divStep b := by
  unfold divStep
  rw [BitVec.getLsbD_xor, BitVec.ushiftRight_xor_distrib]
  cases a.getLsbD 0 <;> cases b.getLsbD 0
  · simp
  · simp [BitVec.xor_assoc]
  · simp only [Bool.xor_false, if_true, Bool.false_eq_true, if_false]; ac_rfl
  · simp only [Bool.xor_self, if_true, Bool.false_eq_true, if_false]
    rw [show a >>> 1 ^^^ poly ^^^ (b >>> 1 ^^^ poly) = a >>> 1 ^^^ b >>> 1 ^^^ (poly ^^^ poly) by ac_rfl,
      BitVec.xor_self, BitVec.xor_zero]

theorem divStep_iterate_xor (n : Nat) (a b : Word) : divStep^[n] (a ^^^ b) = divStep^[n] a ^^^ divStep^[n] b := by
  induction n generalizing a b with
  | zero => rfl
  | succ n ih => simp only [Function.iterate_succ_apply, divStep_xor, ih]

/-- As long as the bits that fall out are 0, the division step is a shift. -/
theorem divStep_iterate_of_low_zero {n : Nat} {c : Word} (h : ∀ k < n, c.getLsbD k = false) :
    divStep^[n] c = c >>> n := by
  induction n generalizing c with
  | zero => simp
  | succ n ih =>
    have hstep : divStep c = c >>> 1 := by unfold divStep; rw [h 0 (by omega)]; rfl
    rw [Function.iterate_succ_apply, hstep, ih, ← BitVec.shiftRight_add, Nat.add_comm]
    intro k hk
    rw [BitVec.getLsbD_ushiftRight]
    exact h _ (by omega)

/-- `Div8` is linear over XOR (42_table_generator.md R131). -/
theorem div8_xor (a b : Word) : div8 (a ^^^ b) = div8 a ^^^ div8 b := divStep_iterate_xor 8 a b

theorem div8_of_low_zero {c : Word} (h : ∀ k < 8, c.getLsbD k = false) : div8 c = c >>> 8 :=
  divStep_iterate_of_low_zero h

@[simp] theorem div8_zero : div8 0#32 = 0#32 := by decide

/-- `Div8` acts on the low byte only (42_table_generator.md R131). -/
theorem div8_low_byte (c : Word) : div8 c = div8 ((c.extractLsb' 0 8).setWidth 32) ^^^ (c >>> 8) := by
  have hlow : ∀ k < 8, (c ^^^ (c.extractLsb' 0 8).setWidth 32).getLsbD k = false := by
    intro k hk
    simp [hk, show k < 32 by omega]
  have hshift : (c.extractLsb' 0 8).setWidth 32 >>> 8 = 0#32 := by
    ext k hk
    simp
  calc div8 c = div8 ((c.extractLsb' 0 8).setWidth 32 ^^^ (c ^^^ (c.extractLsb' 0 8).setWidth 32)) := by
        rw [BitVec.xor_comm c, ← BitVec.xor_assoc, BitVec.xor_self, BitVec.zero_xor]
    _ = _ := by rw [div8_xor, div8_of_low_zero hlow, BitVec.ushiftRight_xor_distrib, hshift, BitVec.xor_zero]

theorem div8_iterate_xor (n : Nat) (a b : Word) : div8^[n] (a ^^^ b) = div8^[n] a ^^^ div8^[n] b := by
  induction n generalizing a b with
  | zero => rfl
  | succ n ih => simp only [Function.iterate_succ_apply, div8_xor, ih]

@[simp] theorem div8_iterate_zero (n : Nat) : div8^[n] 0#32 = 0#32 := Function.iterate_fixed div8_zero n

/-- One of several divisions folds the low byte and shifts the others down. -/
theorem div8_iterate_low_byte (n : Nat) (c : Word) :
    div8^[n + 1] c = div8^[n + 1] ((c.extractLsb' 0 8).setWidth 32) ^^^ div8^[n] (c >>> 8) := by
  rw [Function.iterate_succ_apply, div8_low_byte c, div8_iterate_xor, ← Function.iterate_succ_apply]

/-! ## The fold (45_dispatch.md R210) -/

@[simp] theorem fold_nil (a : Word) : fold a [] = a := rfl

theorem fold_append (a : Word) (bs cs : List Byte) : fold a (bs ++ cs) = fold (fold a bs) cs := by
  induction bs generalizing a with
  | nil => rfl
  | cons b bs ih => exact ih _

/-- The accumulator's share of a fold separates from the bytes' share. -/
theorem fold_xor (a c : Word) (bs : List Byte) : fold (a ^^^ c) bs = fold a bs ^^^ div8^[bs.length] c := by
  induction bs generalizing a c with
  | nil => rfl
  | cons b bs ih =>
    have hbyte : foldByte (a ^^^ c) b = foldByte a b ^^^ div8 c := by
      unfold foldByte
      rw [← div8_xor]
      congr 1
      ac_rfl
    rw [fold, hbyte, ih]
    rfl

/-- In a fold each byte goes through one division for itself and one for each byte that follows it. -/
theorem fold_zero_cons (b : Byte) (bs : List Byte) :
    fold 0#32 (b :: bs) = div8^[bs.length + 1] (b.setWidth 32) ^^^ fold 0#32 bs := by
  have hbyte : foldByte 0#32 b = 0#32 ^^^ div8 (b.setWidth 32) := by simp [foldByte]
  rw [fold, hbyte, fold_xor, Function.iterate_succ_apply, BitVec.xor_comm]

/-- Folding a value's bytes into zero is linear over XOR. -/
theorem fold_zero_valueBytes_xor {m : Nat} (n : Nat) (v u : BitVec m) :
    fold 0#32 (valueBytes n (v ^^^ u)) = fold 0#32 (valueBytes n v) ^^^ fold 0#32 (valueBytes n u) := by
  unfold valueBytes
  induction List.range n with
  | nil => exact (BitVec.xor_self).symm
  | cons k ks ih =>
    rw [List.map_cons, List.map_cons, List.map_cons, fold_zero_cons, fold_zero_cons, fold_zero_cons, ih]
    simp only [List.length_map, BitVec.extractLsb'_xor, BitVec.setWidth_xor, div8_iterate_xor]
    ac_rfl

/-- Eight bytes folded into zero: byte k goes through 8 - k divisions. -/
theorem fold_zero_valueBytes_eight (x : BitVec 64) :
    fold 0#32 (valueBytes 8 x) =
      div8^[8] ((x.extractLsb' 0 8).setWidth 32) ^^^ div8^[7] ((x.extractLsb' 8 8).setWidth 32) ^^^
      div8^[6] ((x.extractLsb' 16 8).setWidth 32) ^^^ div8^[5] ((x.extractLsb' 24 8).setWidth 32) ^^^
      div8^[4] ((x.extractLsb' 32 8).setWidth 32) ^^^ div8^[3] ((x.extractLsb' 40 8).setWidth 32) ^^^
      div8^[2] ((x.extractLsb' 48 8).setWidth 32) ^^^ div8^[1] ((x.extractLsb' 56 8).setWidth 32) := by
  have hbytes : valueBytes 8 x = [x.extractLsb' 0 8, x.extractLsb' 8 8, x.extractLsb' 16 8, x.extractLsb' 24 8,
    x.extractLsb' 32 8, x.extractLsb' 40 8, x.extractLsb' 48 8, x.extractLsb' 56 8] := rfl
  simp only [hbytes, fold_zero_cons, List.length, fold_nil, BitVec.xor_zero, Nat.reduceAdd, BitVec.xor_assoc]

/-- Eight divisions of a word fold its four bytes, followed by four bytes 0. -/
theorem div8_iterate_eight (c : Word) : div8^[8] c = fold 0#32 (valueBytes 8 (c.setWidth 64)) := by
  have hlow (n : Nat) : (c >>> n).extractLsb' 0 8 = (c.setWidth 64).extractLsb' n 8 := by
    ext k hk
    simp only [BitVec.getElem_extractLsb', BitVec.getLsbD_ushiftRight, BitVec.getLsbD_setWidth, Nat.zero_add,
      Bool.eq_and_self, decide_eq_true_eq]
    intro hbit
    have := BitVec.lt_of_getLsbD hbit
    omega
  have hbyte (m n : Nat) : div8^[m + 1] (c >>> n) =
      div8^[m + 1] (((c.setWidth 64).extractLsb' n 8).setWidth 32) ^^^ div8^[m] (c >>> (n + 8)) := by
    rw [div8_iterate_low_byte, hlow, BitVec.shiftRight_add]
  have hout (n : Nat) (hn : 32 ≤ n) : c >>> n = 0#32 := BitVec.ushiftRight_eq_zero hn
  have h0 := hbyte 7 0
  rw [BitVec.ushiftRight_zero] at h0
  rw [fold_zero_valueBytes_eight, h0, hbyte 6, hbyte 5, hbyte 4, hbyte 3, hbyte 2, hbyte 1, hbyte 0, hout _ (by decide)]
  simp only [BitVec.xor_assoc, div8_iterate_zero, BitVec.xor_zero]

/-! ## A built table -/

/-- A slice-0 lookup and a shift is `Div8` (43_software_engine.md R156). -/
theorem lookup_xor_shift {t : Table} (ht : ∀ i, entryBuilt t 0#3 i) (c : Word) :
    t.get 0#3 (c.extractLsb' 0 8) ^^^ (c >>> 8) = div8 c := by
  rw [ht, div8_low_byte c]
  rfl

/-- U_TG_SLICE's entry is one more `Div8` of the slice before (42_table_generator.md R135). -/
theorem sliceEntry_of_built {t : Table} (ht : ∀ i, entryBuilt t 0#3 i) (p : Word) : sliceEntry t p = div8 p :=
  lookup_xor_shift ht p

theorem div8_tableValue_pred {j : BitVec 3} (hj : j ≠ 0#3) (i : BitVec 8) :
    div8 (tableValue (j - 1#3) i) = tableValue j i := by
  have hpred : (j - 1#3).toNat + 1 = j.toNat := by bv_omega
  unfold tableValue
  rw [← Function.iterate_succ_apply' div8, hpred]

/-- The byte step is the fold of the byte (43_software_engine.md R156). -/
theorem swByte_of_built {t : Table} (ht : ∀ i, entryBuilt t 0#3 i) (a : Word) (b : Byte) :
    swByte t a b = foldByte a b := by
  have hshift : (a ^^^ b.setWidth 32) >>> 8 = a >>> 8 := by
    ext k hk
    simp
  unfold swByte
  rw [← hshift]
  exact lookup_xor_shift ht _

/-- The eight lookups are the fold of the word's bytes, lowest first. -/
theorem slice8Lookups_of_built {t : Table} (ht : ∀ j i, entryBuilt t j i) (x : BitVec 64) :
    slice8Lookups t x = fold 0#32 (valueBytes 8 x) := by
  rw [fold_zero_valueBytes_eight]
  unfold slice8Lookups
  rw [ht, ht, ht, ht, ht, ht, ht, ht]
  rfl

/-- The slice step is the fold of the word's bytes, lowest first (43_software_engine.md R157). -/
theorem swSlice8_of_built {t : Table} (ht : ∀ j i, entryBuilt t j i) (a : Word) (w : BitVec 64) :
    swSlice8 t a w = fold a (valueBytes 8 w) := by
  calc swSlice8 t a w = fold 0#32 (valueBytes 8 w) ^^^ fold 0#32 (valueBytes 8 (a.setWidth 64)) := by
        rw [swSlice8, slice8Lookups_of_built ht, fold_zero_valueBytes_xor]
    _ = fold (0#32 ^^^ a) (valueBytes 8 w) := by rw [← div8_iterate_eight, fold_xor]; rfl
    _ = fold a (valueBytes 8 w) := by rw [BitVec.zero_xor]

/-! ## The bytes of a read -/

theorem memRead_one (m : Memory) (a : Nat) : memRead m a 1 = m.read a := BitVec.zero_width_append ..

theorem extractLsb'_memRead (m : Memory) {a n k : Nat} (hk : k < n) :
    (memRead m a n).extractLsb' (8 * k) 8 = m.read (a + k) := by
  induction n generalizing a k with
  | zero => omega
  | succ n ih =>
    cases k with
    | zero =>
      ext x hx
      simp [memRead, BitVec.getLsbD_append, hx]
    | succ k =>
      rw [← Nat.add_assoc, Nat.add_right_comm, ← ih (a := a + 1) (k := k) (by omega)]
      ext x hx
      have hge : ¬8 * (k + 1) + x < 8 := by omega
      have hsub : 8 * (k + 1) + x - 8 = 8 * k + x := by omega
      simp [memRead, BitVec.getLsbD_append, hge, hsub]

theorem bytesAt_eq_map (m : Memory) (a n : Nat) : bytesAt m a n = (List.range n).map fun k => m.read (a + k) := by
  induction n generalizing a with
  | zero => rfl
  | succ n ih =>
    simp [List.range_succ_eq_map, ih, Function.comp_def, Nat.add_assoc, Nat.add_comm 1]

/-- The bytes of a read's value are memory's, lowest address first (20_memory.md R61). -/
theorem valueBytes_memRead (m : Memory) (a n : Nat) : valueBytes n (memRead m a n) = bytesAt m a n := by
  rw [bytesAt_eq_map]
  exact List.map_congr_left fun k hk => extractLsb'_memRead m (List.mem_range.1 hk)

end Sys2Proof.Machine
end

section
/-! What the next step is: the schedules by phase, the two stops, a step on the sequencer's turn and at a store that
takes effect; and what the instructions and the sequencer's moves leave of `RESULT` and `TABLE`. -/

namespace Sys2Proof.Machine

/-! ## The schedules, by phase -/

theorem Phase.inCalc_iff {p : Phase} : p.inCalc = true ↔ p = .calcSw ∨ p = .calcHw := by
  cases p <;> decide

theorem nextUop_build {s : State} (hp : s.phase = .resetTgen ∨ s.phase = .tgen) : nextUop s = some (buildNext s) := by
  rcases hp with hp | hp <;> simp only [nextUop, hp]

theorem nextUop_first {s : State} (hp : s.phase.inCalc = true) (hs : s.stage = .first) :
    nextUop s = some .uInit := by
  rcases Phase.inCalc_iff.1 hp with hp | hp <;> simp only [nextUop, calcNext, hp, hs]

theorem nextUop_calcSw {s : State} (hp : s.phase = .calcSw) (hs : s.stage = .loop) :
    nextUop s = some (swNext s.ptr s.rem) := by
  simp only [nextUop, calcNext, hp, hs]

theorem nextUop_calcHw {s : State} (hp : s.phase = .calcHw) (hs : s.stage = .loop) :
    nextUop s = some (hwNext s.ptr s.rem) := by
  simp only [nextUop, calcNext, hp, hs]

theorem readWidth_hwFoldOf (w : ReadWidth) : readWidth (hwFoldOf w) = some w := by
  cases w <;> rfl

theorem hwNext_of_pos {rem : Nat} (h : 0 < rem) (ptr : Nat) : hwNext ptr rem = hwFoldOf (hwWidth ptr rem) :=
  if_neg (by omega)

/-- The software path folds no more bytes than remain, and ends when none do. -/
theorem swNext_fits (ptr rem : Nat) :
    swNext ptr rem = .uFinal ∨ ∃ w, readWidth (swNext ptr rem) = some w ∧ w.bytes ≤ rem := by
  rcases swNext_cases ptr rem with ⟨-, e⟩ | ⟨hpos, -, e⟩ | ⟨h8, -, e⟩ <;> rw [e]
  · exact .inl rfl
  · exact .inr ⟨.one, rfl, hpos⟩
  · exact .inr ⟨.eight, rfl, h8⟩

/-- The hardware path folds no more bytes than remain, and ends when none do. -/
theorem hwNext_fits (ptr rem : Nat) :
    hwNext ptr rem = .uFinal ∨ ∃ w, readWidth (hwNext ptr rem) = some w ∧ w.bytes ≤ rem := by
  by_cases hpos : 0 < rem
  · rw [hwNext_of_pos hpos]
    exact .inr ⟨_, readWidth_hwFoldOf _, (hwWidth_fits hpos).1⟩
  · exact .inl (if_pos (by omega))

/-- What the sequencer's next micro-op is, with the phase and the stage it belongs to. -/
theorem nextUop_phase_cases {s : State} {i : Instr} (h : nextUop s = some i) :
    ((s.phase = .resetTgen ∨ s.phase = .tgen) ∧ i = buildNext s) ∨
    (s.phase.inCalc = true ∧ s.stage = .first ∧ i = .uInit) ∨
    (s.phase.inCalc = true ∧ s.stage = .loop ∧ i = .uFinal) ∨
    (s.phase.inCalc = true ∧ s.stage = .loop ∧ ∃ w, readWidth i = some w ∧ w.bytes ≤ s.rem) := by
  have build (hp : s.phase = .resetTgen ∨ s.phase = .tgen) : i = buildNext s :=
    Option.some.inj (h.symm.trans (nextUop_build hp))
  have loop (hc : s.phase.inCalc = true) (hs : s.stage = .loop) :
      i = .uFinal ∨ ∃ w, readWidth i = some w ∧ w.bytes ≤ s.rem := by
    rcases Phase.inCalc_iff.1 hc with hp | hp
    · rw [Option.some.inj (h.symm.trans (nextUop_calcSw hp hs))]; exact swNext_fits ..
    · rw [Option.some.inj (h.symm.trans (nextUop_calcHw hp hs))]; exact hwNext_fits ..
  have inCalc (hc : s.phase.inCalc = true) :
      (s.stage = .first ∧ i = .uInit) ∨ (s.stage = .loop ∧ i = .uFinal) ∨
      (s.stage = .loop ∧ ∃ w, readWidth i = some w ∧ w.bytes ≤ s.rem) := by
    cases hs : s.stage with
    | first => exact .inl ⟨rfl, Option.some.inj (h.symm.trans (nextUop_first hc hs))⟩
    | loop => simpa using loop hc hs
  cases hp : s.phase with
  | resetTgen => exact .inl ⟨.inl rfl, build (.inl hp)⟩
  | tgen => exact .inl ⟨.inr rfl, build (.inr hp)⟩
  | calcSw => simpa [Phase.inCalc] using inCalc (by rw [hp]; rfl)
  | calcHw => simpa [Phase.inCalc] using inCalc (by rw [hp]; rfl)
  | idle => simp [nextUop, hp] at h
  | faulted => simp [nextUop, hp] at h

/-! ## Commands -/

/-- Every decoded command word is a command (30_encoding.md R95). -/
theorem isCommand_of_decodeCommand {w : Word} {i : Instr} (h : decodeCommand w = .ok i) : i.isCommand = true := by
  have plain : ∀ k : Instr, k.isCommand = true → decodePlain k w = .ok i → i.isCommand = true := by
    intro k hk h
    unfold decodePlain at h
    split at h <;> cases h
    exact hk
  unfold decodeCommand at h
  split at h
  · cases h
  split at h
  · exact plain _ rfl h
  split at h
  · exact plain _ rfl h
  split at h
  · unfold decodeCalc at h
    split at h
    · cases h
    split at h
    · cases h
    split at h <;> cases h <;> rfl
  · cases h

/-! ## The stops -/

@[simp] theorem engineTurn_ne_fault (s : State) (r : Fault) : engineTurn s ≠ .fault r := by
  rcases engineTurn_cases s with ⟨-, e⟩ | ⟨i, -, e⟩ <;> rw [e] <;> nofun

@[simp] theorem engineTurn_ne_refuse (s : State) (r : Refusal) : engineTurn s ≠ .refuse r := by
  rcases engineTurn_cases s with ⟨-, e⟩ | ⟨i, -, e⟩ <;> rw [e] <;> nofun

/-- A store that takes effect issues a command or is done at once. -/
theorem storeTurn_cases (r : Reg) (v : Word) (s : State) :
    (∃ i, storeTurn r v s = .run i s) ∨ ∃ t, storeTurn r v s = .quiet t := by
  by_cases hr : r = .cmd
  · subst hr
    unfold storeTurn commandTurn
    cases decodeCommand v with
    | ok i => exact .inl ⟨i, rfl⟩
    | error e => exact .inr ⟨_, rfl⟩
  · exact .inr ⟨_, storeTurn_other hr v s⟩

@[simp] theorem storeTurn_ne_fault (r : Reg) (v : Word) (s : State) (f : Fault) : storeTurn r v s ≠ .fault f := by
  rcases storeTurn_cases r v s with ⟨i, e⟩ | ⟨t, e⟩ <;> rw [e] <;> nofun

@[simp] theorem storeTurn_ne_refuse (r : Reg) (v : Word) (s : State) (f : Refusal) : storeTurn r v s ≠ .refuse f := by
  rcases storeTurn_cases r v s with ⟨i, e⟩ | ⟨t, e⟩ <;> rw [e] <;> nofun

theorem turn_fault_iff {s : State} {r : Fault} :
    turn s = .fault r ↔
      r = .noSuchAddress ∧ ∃ a b rest, s.bus = .memWrite a b :: rest ∧ addrSpace s.cfg ≤ a := by
  unfold turn
  split
  case h_6 a b rest hb => split <;> simp_all [eq_comm]
  case h_8 r v rest hb =>
    split
    · simp_all
    · split <;> simp_all
  all_goals simp_all

theorem turn_refuse_iff {s : State} {r : Refusal} :
    turn s = .refuse r ↔ r = .regSubword ∧ ∃ rest, s.bus = .subword :: rest := by
  unfold turn
  split
  case h_6 a b rest hb => split <;> simp_all
  case h_7 rest hb => simp_all [eq_comm]
  case h_8 r v rest hb =>
    split
    · simp_all
    · split <;> simp_all
  all_goals simp_all

/-- An instruction that a step runs answers a next state: the schedules never run a micro-op on operands its rule
excludes, and commands always complete their acceptance step. -/
theorem exec_next_of_turn_run {s t : State} {i : Instr} (h : turn s = .run i t) : ∃ u, exec i t = .next u := by
  rcases turn_run_cases h with ⟨hn, -⟩ | ⟨v, rest, -, hd, -, -⟩
  · exact exec_scheduled_next hn
  · exact exec_command_next (isCommand_of_decodeCommand hd)

/-- A step stops with a fault only where no instruction runs. -/
theorem step_fault_iff {s : State} {r : Fault} : step s = .fault r ↔ turn s = .fault r := by
  unfold step
  split
  case h_1 i t h =>
    obtain ⟨u, hu⟩ := exec_next_of_turn_run h
    simp [hu, finish, h]
  all_goals simp_all

/-- A step is refused only where no instruction runs. -/
theorem step_refused_iff {s : State} {r : Refusal} : step s = .refused r ↔ turn s = .refuse r := by
  unfold step
  split
  case h_1 i t h =>
    obtain ⟨u, hu⟩ := exec_next_of_turn_run h
    simp [hu, finish, h]
  all_goals simp_all

/-! ## The sequencer's turn and stores that take effect -/

theorem turn_nil {s : State} (hb : s.bus = []) : turn s = engineTurn s := by
  unfold turn; rw [hb]

theorem turn_engine {s : State} {rest : List BusEvent} (hb : s.bus = .engine :: rest) :
    turn s = engineTurn (afterEvent s) := by
  unfold turn; rw [hb]; simp only [afterEvent, hb, List.tail_cons]

theorem turn_reset {s : State} {rest : List BusEvent} (hb : s.bus = .reset :: rest) :
    turn s = .quiet (blockReset (afterEvent s)) := by
  unfold turn; rw [hb]; simp only [afterEvent, hb, List.tail_cons]

theorem turn_load {s : State} {r : Reg} {rest : List BusEvent} (hb : s.bus = .load r :: rest) :
    turn s = .quiet (hostLoad r (afterEvent s)) := by
  unfold turn; rw [hb]; simp only [afterEvent, hb, List.tail_cons]

section Stores
variable {s : State} {r : Reg} {v : Word} {rest : List BusEvent} (hb : s.bus = .store r v :: rest)
include hb

theorem turn_store_faulted (hp : s.phase = .faulted) : turn s = .quiet (afterEvent s) := by
  unfold turn; rw [hb]; simp [afterEvent, hb, hp, Phase.fault]

theorem turn_store_busy (hp : s.phase.busy = true) : turn s = engineTurn s := by
  have hf : s.phase.fault = false := by cases h : s.phase <;> simp_all [Phase.busy, Phase.fault]
  unfold turn; rw [hb]; simp [hf, hp]

theorem turn_store_idle (hp : s.phase = .idle) : turn s = storeTurn r v (afterEvent s) := by
  unfold turn; rw [hb]; simp [afterEvent, hb, hp, Phase.fault, Phase.busy]

end Stores

theorem step_of_turn_run {s t : State} {i : Instr} (h : turn s = .run i t) :
    step s = mapNext (advance i) (exec i t) := by
  rw [step_run h, finish_eq_mapNext]

theorem engineTurn_of_nextUop {s : State} {i : Instr} (h : nextUop s = some i) : engineTurn s = .run i s := by
  unfold engineTurn; rw [h]

/-- What is next does not depend on the bus. -/
theorem nextUop_afterEvent (s : State) : nextUop (afterEvent s) = nextUop s := rfl

theorem busy_of_nextUop {s : State} {i : Instr} (h : nextUop s = some i) : s.phase.busy = true := by
  rw [← nextUop_isSome, h]; rfl

/-- A command's step is its exec: the sequencer does not move after it. -/
theorem step_issue_ok {s : State} {w : Word} {i : Instr} (h : issues w s) (hd : decodeCommand w = .ok i) :
    step s = exec i (afterEvent s) := by
  have ht : turn s = .run i (afterEvent s) := by rw [turn_issue h]; simp only [commandTurn, hd]
  obtain ⟨u, hu⟩ := exec_next_of_turn_run ht
  rw [step_of_turn_run ht, hu, mapNext, advance_command (isCommand_of_decodeCommand hd)]

/-- An illegal word issued to an idle block only leaves its code (45_dispatch.md R201). -/
theorem step_issue_error {s : State} {w : Word} {e : DecodeError} (h : issues w s) (hd : decodeCommand w = .error e) :
    step s = .next { afterEvent s with err := .illegalCommand } := by
  have ht : turn s = .quiet (illegalCommand (afterEvent s)) := by rw [turn_issue h]; simp only [commandTurn, hd]
  have hidle : Phase.idle = (afterEvent s).phase := h.1.symm
  rw [step_quiet ht]
  unfold illegalCommand complete accept
  rw [hidle]

end Sys2Proof.Machine
end

section
/-! The invariant of the block holds after reset and every step keeps it. The proof goes by what a step is: a table
micro-op fills or rewrites the entry at the counters, a buffer micro-op moves bytes from what remains into the
accumulator, and every other step keeps the part of the invariant that is independent of `PHASE` (`Ready`). -/

namespace Sys2Proof.Machine

/-! ## Buffer micro-ops on a built table -/

/-- On a built table every buffer micro-op folds the bytes it reads (43_software_engine.md R156, R157,
44_hardware_engine.md R181 to R184). -/
theorem exec_buffer_fold {i : Instr} {w : ReadWidth} {s : State} (hi : readWidth i = some w)
    (ht : ∀ j x, entryBuilt s.table j x) :
    exec i s = .next (bufferMicroOp w (fold s.acc (bytesAt s.mem s.ptr w.bytes)) s) := by
  have hw (n : Nat) : hwFold n s.acc (memRead s.mem s.ptr n) = fold s.acc (bytesAt s.mem s.ptr n) := by
    rw [hwFold, valueBytes_memRead]
  have hbyte : swByte s.table s.acc (memRead s.mem s.ptr 1) = fold s.acc (bytesAt s.mem s.ptr 1) := by
    rw [swByte_of_built (ht 0#3), memRead_one]; rfl
  have hslice : swSlice8 s.table s.acc (memRead s.mem s.ptr 8) = fold s.acc (bytesAt s.mem s.ptr 8) := by
    rw [swSlice8_of_built ht, valueBytes_memRead]
  cases i <;> cases hi <;>
    simp only [exec, execUSwByte, execUSwSlice8, execUHwFold1, execUHwFold2, execUHwFold4, execUHwFold8,
      ReadWidth.bytes, hw, hbyte, hslice]

/-! ## The table build -/

/-- The entries up to the counters hold their values, once the one at the counters has been written. -/
theorem entryBuilt_set_of_le {t : Table} {j J : BitVec 3} {i I : BitVec 8}
    (ht : ∀ j i, earlier j i J I → entryBuilt t j i)
    (hle : 256 * j.toNat + i.toNat ≤ 256 * J.toNat + I.toNat) :
    entryBuilt (t.set J I (tableValue J I)) j i := by
  unfold entryBuilt
  rw [Table.get_set]
  split
  next h => rw [h.1, h.2]
  next h =>
    refine ht j i (lt_of_le_of_ne hle fun he => h ?_)
    exact ⟨BitVec.eq_of_toNat_eq (by omega), BitVec.eq_of_toNat_eq (by omega)⟩

/-- The table micro-op at the counters writes the value of the entry there, if the entries before it have theirs
(42_table_generator.md R132, R133, R135). -/
theorem exec_buildNext {s : State} (ht : ∀ j i, earlier j i s.tgJ s.tgI → entryBuilt s.table j i) :
    exec (buildNext s) s = .next { s with table := s.table.set s.tgJ s.tgI (tableValue s.tgJ s.tgI) } := by
  unfold buildNext
  split
  next hj =>
    have hval : div8 (s.tgI.setWidth 32) = tableValue 0#3 s.tgI := rfl
    simp only [exec, execUTgBase, hj, hval]
  next hj =>
    have hpos : (s.tgJ - 1#3).toNat + 1 = s.tgJ.toNat := by bv_omega
    have hzero : ∀ i, entryBuilt s.table 0#3 i := fun i => ht _ _ (by
      have := i.isLt
      simp only [earlier, BitVec.toNat_ofNat]
      omega)
    have hprev : entryBuilt s.table (s.tgJ - 1#3) s.tgI := ht _ _ (by unfold earlier; omega)
    simp only [exec, execUTgSlice, if_neg hj]
    rw [sliceEntry_of_built hzero, hprev, div8_tableValue_pred hj]

theorem advance_buildNext (s t : State) : advance (buildNext s) t = advanceBuild s.tgJ s.tgI t := by
  unfold buildNext
  split
  next hj => rw [hj]; rfl
  next => rfl

/-! ## The invariant outside the reset build -/

/-- What holds in every phase but the reset table build, and says nothing of `PHASE`, `ERR` or a running CALC: the part
of `BlockInv` that acceptance, completion and fault entry keep. -/
structure Ready (s : State) : Prop where
  memWf    : s.mem.wf = true
  tblReady : s.tblReady = true
  table    : ∀ j i, entryBuilt s.table j i
  narrow   : s.cfg.addrW = .w32 → s.addrHi = 0#32 ∧ s.lenHi = 0#32 ∧ s.faultAddrHi = 0#32

theorem BlockInv.ready_of_ne {s : State} (h : BlockInv s) (hp : s.phase ≠ .resetTgen) : Ready s :=
  ⟨h.memWf, h.ready.2 hp, h.tableDone (h.ready.2 hp), h.narrow⟩

theorem Ready.keeps_accept {s : State} (h : Ready s) : Ready (accept s) := { h with }

theorem Ready.keeps_afterEvent {s : State} (h : Ready s) : Ready (afterEvent s) := { h with }

theorem Ready.keeps_result {s : State} (h : Ready s) (r : Word) : Ready { s with result := r } := { h with }

theorem Ready.keeps_freeResult {s : State} (h : Ready s) : Ready (freeResult s) := { h with }

theorem Ready.blockInv_of_not_inCalc {s : State} (h : Ready s) (hp : s.phase ≠ .resetTgen)
    (hc : s.phase.inCalc = false) (he : s.err.isFault = true ↔ s.phase = .faulted)
    (hb : s.phase.busy = true → s.err = .ok) : BlockInv s where
  memWf := h.memWf
  ready := ⟨fun _ => hp, fun _ => h.tblReady⟩
  tableDone := fun _ => h.table
  tablePart := fun hr => absurd hr hp
  errFault := he
  errBusy := hb
  hwOnly := fun hw => by rw [hw] at hc; cases hc
  calcLen := fun hi => by rw [hi] at hc; cases hc
  calcRange := fun hi => by rw [hi] at hc; cases hc
  calcFirst := fun hi => by rw [hi] at hc; cases hc
  calcFold := fun hi => by rw [hi] at hc; cases hc
  narrow := h.narrow

theorem Ready.blockInv_complete {s : State} (h : Ready s) (c : ErrCode) (hc : c.isFault = false) :
    BlockInv (complete c s) :=
  Ready.blockInv_of_not_inCalc { h with } (by simp) rfl (by simp [hc]) nofun

/-- The end of a build sets `TBL_READY`, so every entry must hold its value by then. -/
theorem blockInv_endBuild {s : State} (h : Ready { s with tblReady := true }) : BlockInv (endBuild s) :=
  h.blockInv_complete .ok rfl

theorem Ready.blockInv_startBuild {s : State} (h : Ready s) : BlockInv (startBuild (accept s)) :=
  Ready.blockInv_of_not_inCalc { h with } (by simp) rfl (by simp [ErrCode.isFault]) fun _ => rfl

theorem Ready.blockInv_hwPathUnsupported {s : State} (h : Ready s) :
    BlockInv (raiseFault .hwPathUnsupported (accept s)) :=
  Ready.blockInv_of_not_inCalc { h with } (by simp) rfl (by simp [ErrCode.isFault]) nofun

/-- `FAULT_ADDR_HI` is 0 where `PTR` has 32 bits. -/
theorem Ready.blockInv_memoryFault {s : State} (h : Ready s) (hptr : s.ptr < addrSpace s.cfg) :
    BlockInv (raiseFault .memoryFault s) := by
  have hhigh (h32 : s.cfg.addrW = .w32) : (BitVec.ofNat 64 s.ptr).extractLsb' 32 32 = 0#32 := by
    simp only [addrSpace, h32, AddrWidth.bits] at hptr
    apply BitVec.eq_of_toNat_eq
    simp only [BitVec.extractLsb'_toNat, BitVec.toNat_ofNat]
    omega
  refine Ready.blockInv_of_not_inCalc ⟨?_, ?_, ?_, ?_⟩ (by simp) (by simp [Phase.inCalc]) (by simp [ErrCode.isFault])
    (by simp [Phase.busy])
  · simpa using h.memWf
  · simpa using h.tblReady
  · simpa using h.table
  · intro h32
    rw [raiseFault_cfg] at h32
    exact ⟨(h.narrow h32).1, (h.narrow h32).2.1, hhigh h32⟩

/-- A started CALC is the only new phase with clauses of its own. -/
theorem Ready.blockInv_startCalc {s : State} (h : Ready s) {hw : Bool} (x : Word)
    (hpath : hw = true → hwPresent s.cfg = true) (hlen : 0 < s.len) (hfit : s.addr + s.len ≤ addrSpace s.cfg) :
    BlockInv (startCalc hw x (accept s)) where
  memWf := h.memWf
  ready := ⟨fun _ => by cases hw <;> simp, fun _ => h.tblReady⟩
  tableDone := fun _ => h.table
  tablePart := by cases hw <;> simp
  errFault := by cases hw <;> simp [ErrCode.isFault]
  errBusy := fun _ => rfl
  hwOnly := by cases hw <;> simp_all
  calcLen := fun _ => hlen
  calcRange := fun _ => ⟨le_rfl, rfl, hfit⟩
  calcFirst := fun _ _ => rfl
  calcFold := nofun
  narrow := h.narrow

/-! ## Commands -/

theorem bufferWraps_eq_false {s : State} : bufferWraps s = false ↔ s.addr + s.len ≤ addrSpace s.cfg := by
  simp [bufferWraps]

theorem Ready.blockInv_acceptCalc {s : State} (h : Ready s) (hw : Bool) (f : FlagKind) (d : DataKind) (k : InitKind) :
    BlockInv (acceptCalc hw f d k s) := by
  rcases acceptCalc_cases hw f d k s with ⟨-, e⟩ | ⟨-, -, e⟩ | ⟨-, -, -, -, e⟩ | ⟨-, -, -, -, e⟩ |
    ⟨-, hfit, hpath, hlen, e⟩ <;> rw [e]
  · exact h.keeps_accept.blockInv_complete .invalidArgument rfl
  · exact h.keeps_accept.blockInv_complete .invalidArgument rfl
  · exact h.blockInv_hwPathUnsupported
  · exact (h.keeps_accept.keeps_result _).blockInv_complete .ok rfl
  · exact h.blockInv_startCalc _ hpath hlen (bufferWraps_eq_false.1 hfit)

/-- Every command leaves the invariant. -/
theorem Ready.blockInv_command {s t : State} {i : Instr} (h : Ready s) (hi : i.isCommand = true)
    (he : exec i s = .next t) : BlockInv t := by
  cases i <;> cases hi <;> cases he
  case featq => exact (h.keeps_accept.keeps_result _).blockInv_complete .ok rfl
  case tblgen => exact h.blockInv_startBuild
  case calcSw => exact h.blockInv_acceptCalc ..
  case calcHw => exact h.blockInv_acceptCalc ..

/-! ## Micro-ops -/

/-- The invariant in the reset table build. -/
theorem blockInv_resetTgen {s : State} (hp : s.phase = .resetTgen) (hm : s.mem.wf = true) (hr : s.tblReady = false)
    (ht : ∀ j i, earlier j i s.tgJ s.tgI → entryBuilt s.table j i) (he : s.err = .ok)
    (hn : s.cfg.addrW = .w32 → s.addrHi = 0#32 ∧ s.lenHi = 0#32 ∧ s.faultAddrHi = 0#32) : BlockInv s where
  memWf := hm
  ready := by simp [hp, hr]
  tableDone := by simp [hr]
  tablePart := fun _ => ht
  errFault := by simp [he, hp, ErrCode.isFault]
  errBusy := fun _ => he
  hwOnly := by simp [hp]
  calcLen := by simp [hp, Phase.inCalc]
  calcRange := by simp [hp, Phase.inCalc]
  calcFirst := by simp [hp, Phase.inCalc]
  calcFold := by simp [hp, Phase.inCalc]
  narrow := hn

/-- A micro-op of the reset build: the entry at the counters is written, and the counters move to the next one or the
build ends (42_table_generator.md R134, R136). -/
theorem BlockInv.resetBuild {s : State} (h : BlockInv s) (hp : s.phase = .resetTgen) :
    BlockInv (advanceBuild s.tgJ s.tgI
      { s with table := s.table.set s.tgJ s.tgI (tableValue s.tgJ s.tgI) }) := by
  have hr : s.tblReady = false := by simpa [hp] using h.ready
  have he : s.err = .ok := h.errBusy (by rw [hp]; rfl)
  have hset (j : BitVec 3) (i : BitVec 8) (hle : 256 * j.toNat + i.toNat ≤ 256 * s.tgJ.toNat + s.tgI.toNat) :
      entryBuilt (s.table.set s.tgJ s.tgI (tableValue s.tgJ s.tgI)) j i := entryBuilt_set_of_le (h.tablePart hp) hle
  rcases advanceBuild_cases s.tgJ s.tgI { s with table := s.table.set s.tgJ s.tgI (tableValue s.tgJ s.tgI) } with
    ⟨hi, e⟩ | ⟨hi, hj, e⟩ | ⟨hi, hj, e⟩ <;> rw [e]
  · have hnext : (s.tgI + 1#8).toNat = s.tgI.toNat + 1 := by bv_omega
    refine blockInv_resetTgen hp h.memWf hr (fun j i hlt => hset j i ?_) he h.narrow
    simp only [earlier, hnext] at hlt
    omega
  · have hnext : (s.tgJ + 1#3).toNat = s.tgJ.toNat + 1 := by bv_omega
    refine blockInv_resetTgen hp h.memWf hr (fun j i hlt => hset j i ?_) he h.narrow
    simp only [earlier, hnext, hi, BitVec.toNat_ofNat] at hlt ⊢
    omega
  · refine blockInv_endBuild ⟨h.memWf, rfl, fun j i => hset j i ?_, h.narrow⟩
    have := j.isLt
    have := i.isLt
    simp only [hi, hj, BitVec.toNat_ofNat]
    omega

/-- A micro-op of TBLGEN: the table stays as it is (42_table_generator.md R137). -/
theorem BlockInv.tgenBuild {s : State} (h : BlockInv s) (hp : s.phase = .tgen) :
    BlockInv (advanceBuild s.tgJ s.tgI
      { s with table := s.table.set s.tgJ s.tgI (tableValue s.tgJ s.tgI) }) := by
  have hready := h.ready_of_ne (by simp [hp])
  have hset : s.table.set s.tgJ s.tgI (tableValue s.tgJ s.tgI) = s.table := by
    rw [← show _ = _ from hready.table s.tgJ s.tgI, Table.set_get_self]
  have he : s.err = .ok := h.errBusy (by rw [hp]; rfl)
  have hmove (j : BitVec 3) (i : BitVec 8) : BlockInv { s with tgJ := j, tgI := i } :=
    Ready.blockInv_of_not_inCalc { hready with } (by simp [hp]) (by simp [hp, Phase.inCalc])
      (by simp [he, hp, ErrCode.isFault]) fun _ => he
  rw [hset]
  show BlockInv (advanceBuild s.tgJ s.tgI s)
  rcases advanceBuild_cases s.tgJ s.tgI s with ⟨-, e⟩ | ⟨-, -, e⟩ | ⟨-, -, e⟩ <;> rw [e]
  · exact hmove ..
  · exact hmove ..
  · exact blockInv_endBuild { hready with tblReady := rfl }

section Calc
variable {s : State} (h : BlockInv s) (hc : s.phase.inCalc = true)
include h hc

theorem BlockInv.ready_of_inCalc : Ready s :=
  h.ready_of_ne fun hp => by rw [hp] at hc; cases hc

/-- U_INIT: the whole buffer is to fold into the inverted initial value. -/
theorem BlockInv.uInit (hs : s.stage = .first) :
    BlockInv { s with acc := s.initLatch ^^^ 0xFFFFFFFF#32, stage := .loop } :=
  { h with
    calcFirst := nofun
    calcFold := fun _ _ _ => by
      have hptr := h.calcFirst hc hs
      have hrem : s.rem = s.len := by have := h.calcRange hc; omega
      show fold _ (bytesAt s.mem s.ptr s.rem) = _
      rw [hptr, hrem]
      rfl }

/-- Folding the next bytes of the buffer into the accumulator leaves the fold of what remains. -/
theorem BlockInv.consume_fold {w : ReadWidth} (hs : s.stage = .loop) (hw : w.bytes ≤ s.rem) :
    BlockInv (consume w (fold s.acc (bytesAt s.mem s.ptr w.bytes)) s) :=
  { h with
    calcRange := fun _ => by
      obtain ⟨hge, hsum, hfit⟩ := h.calcRange hc
      refine ⟨?_, ?_, hfit⟩
      · exact hge.trans (Nat.le_add_right ..)
      · show s.ptr + w.bytes + remAfter s.rem w.bytes = s.addr + s.len
        rw [remAfter_of_le hw]
        omega
    calcFirst := fun _ hf => by
      rw [consume_stage, hs] at hf; cases hf
    calcFold := fun _ _ hr => by
      show fold (fold s.acc (bytesAt s.mem s.ptr w.bytes))
        (bytesAt s.mem (s.ptr + w.bytes) (remAfter s.rem w.bytes)) = _
      rw [remAfter_of_le hw, ← fold_append, ← bytesAt_add, Nat.add_sub_cancel' hw]
      exact h.calcFold hc hs hr }

theorem BlockInv.bufferMicroOp_fold {w : ReadWidth} (hs : s.stage = .loop) (hw : w.bytes ≤ s.rem) :
    BlockInv (bufferMicroOp w (fold s.acc (bytesAt s.mem s.ptr w.bytes)) s) := by
  rcases bufferMicroOp_cases w (fold s.acc (bytesAt s.mem s.ptr w.bytes)) s with ⟨-, e⟩ | ⟨-, e⟩ <;> rw [e]
  · exact h.consume_fold hc hs hw
  · have hpos := ReadWidth.bytes_pos w
    have hrange := h.calcRange hc
    exact (h.ready_of_inCalc hc).blockInv_memoryFault (by omega)

theorem BlockInv.uFinal {t : State} (he : exec .uFinal s = .next t) : BlockInv t := by
  have hready := h.ready_of_inCalc hc
  cases he
  split
  · exact hready.keeps_freeResult.blockInv_complete .ok rfl
  · exact (hready.keeps_result _).blockInv_complete .ok rfl

end Calc

/-- Every scheduled micro-op, the sequencer having moved on, keeps the invariant. -/
theorem BlockInv.microOp {s t : State} {i : Instr} (h : BlockInv s) (hn : nextUop s = some i)
    (he : exec i s = .next t) : BlockInv (advance i t) := by
  rcases nextUop_phase_cases hn with ⟨hp, rfl⟩ | ⟨hc, hs, rfl⟩ | ⟨hc, -, rfl⟩ | ⟨hc, hs, w, hi, hw⟩
  · have hbefore : ∀ j i, earlier j i s.tgJ s.tgI → entryBuilt s.table j i := by
      rcases hp with hp | hp
      · exact h.tablePart hp
      · exact fun j i _ => (h.ready_of_ne (by simp [hp])).table j i
    rw [exec_buildNext hbefore] at he
    cases he
    rw [advance_buildNext]
    rcases hp with hp | hp
    · exact h.resetBuild hp
    · exact h.tgenBuild hp
  · cases he
    exact h.uInit hc hs
  · exact h.uFinal hc he
  · rw [exec_buffer_fold hi (h.ready_of_inCalc hc).table] at he
    cases he
    rw [advance_buffer hi]
    exact h.bufferMicroOp_fold hc hs hw

/-! ## Steps in which no instruction runs -/

/-- The invariant says nothing of the bus. -/
theorem BlockInv.keeps_afterEvent {s : State} (h : BlockInv s) : BlockInv (afterEvent s) := { h with }

theorem BlockInv.keeps_hostLoad {s : State} (h : BlockInv s) (r : Reg) : BlockInv (hostLoad r s) := { h with }

theorem BlockInv.keeps_hostPoll {s : State} (h : BlockInv s) : BlockInv (hostPoll s) := by
  unfold hostPoll
  split
  · exact { h with }
  · exact { h with }

theorem inBuffer_eq_false {s : State} {a : Nat} : inBuffer s a = false ↔ a < s.addr ∨ s.addr + s.len ≤ a := by
  simp only [inBuffer, Bool.and_eq_false_iff, decide_eq_false_iff_not, Nat.not_le, Nat.not_lt]

/-- A write outside a running CALC's buffer leaves the bytes it folds; one inside sets the mark
(20_memory.md R67). -/
theorem BlockInv.keeps_hostMemWrite {s : State} (h : BlockInv s) (a : Nat) (b : Byte) : BlockInv (hostMemWrite a b s) :=
  { h with
    memWf := Memory.wf_write h.memWf a b
    calcFold := fun hc hs hr => by
      have hcalc : s.phase.inCalc = true := hc
      rw [hostMemWrite_raced, hcalc, Bool.true_and, Bool.or_eq_false_iff, inBuffer_eq_false] at hr
      obtain ⟨hge, hsum, -⟩ := h.calcRange hc
      show fold s.acc (bytesAt (s.mem.write a b) s.ptr s.rem)
        = fold (not32 s.initLatch) (bytesAt (s.mem.write a b) s.addr s.len)
      rw [bytesAt_write h.memWf b (by omega), bytesAt_write h.memWf b hr.2]
      exact h.calcFold hc hs hr.1 }

/-- At the start of a build no entry is earlier than the counters. -/
theorem not_earlier_zero (j : BitVec 3) (i : BitVec 8) : ¬earlier j i 0#3 0#8 := by
  simp [earlier]

theorem blockInv_resetOn (p : Platform) : BlockInv (State.resetOn p) :=
  blockInv_resetTgen rfl rfl rfl (fun j i h => absurd h (not_earlier_zero j i)) rfl fun _ => ⟨rfl, rfl, rfl⟩

theorem BlockInv.keeps_blockReset {s : State} (h : BlockInv s) : BlockInv (blockReset s) :=
  blockInv_resetTgen rfl h.memWf rfl (fun j i h => absurd h (not_earlier_zero j i)) rfl fun _ => ⟨rfl, rfl, rfl⟩

theorem Ready.keeps_writeAddrHi {s : State} (h : Ready s) (v : Word) : Ready (writeAddrHi v s) := by
  unfold writeAddrHi
  split
  next => exact h
  next h64 => exact { h with narrow := fun h32 => nomatch h64.symm.trans h32 }

theorem Ready.keeps_writeLenHi {s : State} (h : Ready s) (v : Word) : Ready (writeLenHi v s) := by
  unfold writeLenHi
  split
  next => exact h
  next h64 => exact { h with narrow := fun h32 => nomatch h64.symm.trans h32 }

/-- A store keeps the `_HI` registers at 0 when ADDR_W = 32 (10_state.md R23). -/
theorem Ready.keeps_writeReg {s : State} (h : Ready s) (r : Reg) (v : Word) : Ready (writeReg r v s) := by
  cases r with
  | addrHi => exact h.keeps_writeAddrHi v
  | lenHi => exact h.keeps_writeLenHi v
  | _ => exact { h with }

theorem BlockInv.keeps_writeReg {s : State} (h : BlockInv s) (hp : s.phase = .idle) (r : Reg) (v : Word) :
    BlockInv (writeReg r v s) := by
  have hready := (h.ready_of_ne (by simp [hp])).keeps_writeReg r v
  have herr := h.errFault
  rw [hp, ← writeReg_err r v] at herr
  refine hready.blockInv_of_not_inCalc ?_ ?_ ?_ ?_ <;> rw [writeReg_phase, hp]
  · nofun
  · rfl
  · exact herr
  · nofun

/-- A step in which no instruction runs keeps the invariant. -/
theorem BlockInv.quiet {s t : State} (h : BlockInv s) (ht : turn s = .quiet t) : BlockInv t := by
  have ha := h.keeps_afterEvent
  rcases turn_quiet_cases ht with ⟨-, rfl⟩ | ⟨_, -, -, rfl⟩ | ⟨_, -, rfl⟩ | ⟨r, _, -, rfl⟩ | ⟨a, b, _, -, -, rfl⟩ |
    ⟨_, _, _, -, -, rfl⟩ | ⟨r, v, _, -, hp, -, rfl⟩ | ⟨_, _, _, -, hp, -, rfl⟩ | ⟨_, -, rfl⟩
  · exact h
  · exact ha
  · exact ha.keeps_blockReset
  · exact ha.keeps_hostLoad r
  · exact ha.keeps_hostMemWrite a b
  · exact ha
  · exact ha.keeps_writeReg hp r v
  · exact (h.ready_of_ne (by simp [hp])).keeps_afterEvent.keeps_accept.blockInv_complete .illegalCommand rfl
  · exact ha.keeps_hostPoll

/-- A step that runs an instruction keeps the invariant: a micro-op on the sequencer's turn, or an accepted command. -/
theorem BlockInv.run {s t u : State} {i : Instr} (h : BlockInv s) (ht : turn s = .run i t)
    (he : exec i t = .next u) : BlockInv (advance i u) := by
  rcases turn_run_cases ht with ⟨hn, hts⟩ | ⟨v, rest, -, hd, hp, rfl⟩
  · have hinv : BlockInv t := by
      rcases hts with rfl | ⟨rest, -, rfl⟩
      · exact h
      · exact { h with }
    exact hinv.microOp hn he
  · have hcmd := isCommand_of_decodeCommand hd
    have hready : Ready { s with bus := rest } := { h.ready_of_ne (by simp [hp]) with }
    rw [advance_command hcmd]
    exact hready.blockInv_command hcmd he

/-- Settles O48: a step runs nothing (`BlockInv.quiet`), or a micro-op or a command (`BlockInv.run`). -/
theorem stepKeepsInvariant : Obligations.StepKeepsInvariant := by
  intro s t h hstep
  rcases step_next_cases hstep with hq | ⟨i, v, u, hrun, he, rfl⟩
  · exact h.quiet hq
  · exact h.run hrun he

/-- Settles O47: the state after reset is at the start of a reset build, whatever the platform. -/
theorem resetMeetsInvariant : Obligations.ResetMeetsInvariant := blockInv_resetOn _

end Sys2Proof.Machine
end

section
/-! The statements of 10_state.md about single steps: how a step stops, what the sequencer runs next, who writes and
reads `TABLE`, what host stores and loads do, how registers read, and reset. -/

namespace Sys2Proof.Machine

/-! ## Stops and the sequencer's turn -/

/-- Settles O10: a step stops only where `turn` does, since a running instruction never stops. -/
theorem stepStopsOnlyOnTheseEvents : Obligations.StepStopsOnlyOnTheseEvents := by
  refine fun s => ⟨fun r h => ?_, fun r h => ?_, fun rest hb => ?_⟩
  · exact turn_fault_iff.1 (step_fault_iff.1 h)
  · exact turn_refuse_iff.1 (step_refused_iff.1 h)
  · exact step_refused_iff.2 (turn_refuse_iff.2 ⟨rfl, rest, hb⟩)

/-- Settles O7: on each of the three ways to the sequencer's turn, `turn` runs the scheduled micro-op. -/
theorem stepRunsScheduledMicroOp : Obligations.StepRunsScheduledMicroOp := by
  refine fun s i hn => ⟨fun hb => ?_, fun rest hb => ?_, fun r v rest hb => ?_⟩
  · exact step_of_turn_run ((turn_nil hb).trans (engineTurn_of_nextUop hn))
  · exact step_of_turn_run ((turn_engine hb).trans (engineTurn_of_nextUop ((nextUop_afterEvent s).trans hn)))
  · exact step_of_turn_run ((turn_store_busy hb (busy_of_nextUop hn)).trans (engineTurn_of_nextUop hn))

theorem nextUop_idle_or_faulted {s : State} (hp : s.phase = .idle ∨ s.phase = .faulted) : nextUop s = none := by
  rcases hp with hp | hp <;> simp only [nextUop, hp]

theorem hwFoldOf_ne_sw (w : ReadWidth) : hwFoldOf w ≠ .uSwByte ∧ hwFoldOf w ≠ .uSwSlice8 := by
  cases w <;> decide

/-- Settles O8: the phase gives the schedule, and the stage, `PTR` and `REM` its choice. -/
theorem schedulePicksMicroOp : Obligations.SchedulePicksMicroOp := by
  intro s
  refine ⟨nextUop_idle_or_faulted, nextUop_build, nextUop_first, fun hc hs hr => ?_, fun hp hs hr hb => ?_,
    fun hp hs hr ha => ?_, fun hp hs hr => ?_⟩
  · rcases Phase.inCalc_iff.1 hc with hp | hp
    · rw [nextUop_calcSw hp hs, hr]; rfl
    · rw [nextUop_calcHw hp hs, hr]; rfl
  · rw [nextUop_calcSw hp hs, swNext, if_neg (by omega), if_pos hb]
  · rw [nextUop_calcSw hp hs, swNext, if_neg (by omega), if_neg (by omega)]
  · refine ⟨_, _, nextUop_calcHw hp hs, ?_, ?_, ?_, rfl⟩ <;> rw [hwNext_of_pos hr]
    · exact readWidth_hwFoldOf _
    · exact (hwFoldOf_ne_sw _).1
    · exact (hwFoldOf_ne_sw _).2

/-! ## `TABLE` -/

/-- A state with another table in it. -/
def withTableOf (tbl : Table) (s : State) : State := { s with table := tbl }

/-- The buffer micro-ops meet the table only in the accumulator they are given. -/
theorem bufferMicroOp_withTableOf (tbl : Table) (w : ReadWidth) (x : Word) (s : State) :
    bufferMicroOp w x (withTableOf tbl s) = withTableOf tbl (bufferMicroOp w x s) := by
  unfold bufferMicroOp
  rw [apply_ite (withTableOf tbl)]
  rfl

theorem acceptCalc_withTableOf (tbl : Table) (hw : Bool) (f : FlagKind) (d : DataKind) (k : InitKind) (s : State) :
    acceptCalc hw f d k (withTableOf tbl s) = withTableOf tbl (acceptCalc hw f d k s) := by
  unfold acceptCalc
  simp only [apply_ite (withTableOf tbl)]
  rfl

/-- An instruction that reads and writes no entry does the same on any table, and leaves it. -/
theorem exec_withTableOf (tbl : Table) {i : Instr} (s : State) (hbase : ∀ x, i ≠ .uTgBase x)
    (hslice : ∀ j x, i ≠ .uTgSlice j x) (hbyte : i ≠ .uSwByte) (hslice8 : i ≠ .uSwSlice8) :
    exec i (withTableOf tbl s) = mapNext (withTableOf tbl) (exec i s) := by
  cases i with
  | featq => rfl
  | tblgen => rfl
  | calcSw f d k => exact congrArg _ (acceptCalc_withTableOf ..)
  | calcHw f d k => exact congrArg _ (acceptCalc_withTableOf ..)
  | uTgBase x => exact absurd rfl (hbase x)
  | uTgSlice j x => exact absurd rfl (hslice j x)
  | uInit => rfl
  | uSwByte => exact absurd rfl hbyte
  | uSwSlice8 => exact absurd rfl hslice8
  | uHwFold1 => exact congrArg _ (bufferMicroOp_withTableOf ..)
  | uHwFold2 => exact congrArg _ (bufferMicroOp_withTableOf ..)
  | uHwFold4 => exact congrArg _ (bufferMicroOp_withTableOf ..)
  | uHwFold8 => exact congrArg _ (bufferMicroOp_withTableOf ..)
  | uFinal =>
    show Host.Outcome.next (complete .ok (if s.raced then _ else _))
      = .next (withTableOf tbl (complete .ok (if s.raced then _ else _)))
    split <;> rfl

/-- Outside a build no instruction writes `TABLE`. -/
theorem exec_table {i : Instr} {s t : State} (hbase : ∀ x, i ≠ .uTgBase x) (hslice : ∀ j x, i ≠ .uTgSlice j x)
    (h : exec i s = .next t) : t.table = s.table := by
  by_cases hbuf : ∃ w, readWidth i = some w
  · obtain ⟨w, hw⟩ := hbuf
    obtain ⟨x, hx⟩ := exec_buffer_form hw s
    cases hx.symm.trans h
    exact bufferMicroOp_keeps State.table (by simp) (by simp) w x s
  · have hsame : mapNext (withTableOf s.table) (exec i s) = exec i s :=
      (exec_withTableOf s.table s hbase hslice (fun h => hbuf ⟨.one, h ▸ rfl⟩) (fun h => hbuf ⟨.eight, h ▸ rfl⟩)).symm
    rw [h] at hsame
    exact (congrArg State.table (Host.Outcome.next.inj hsame)).symm

/-- A step in which no instruction runs keeps what neither a bus event nor an illegal command writes. -/
theorem turn_quiet_keeps {α : Type} (g : State → α) (hevent : ∀ s, g (afterEvent s) = g s)
    (hload : ∀ r s, g (hostLoad r s) = g s) (hpoll : ∀ s, g (hostPoll s) = g s)
    (hmem : ∀ a b s, g (hostMemWrite a b s) = g s) (hreg : ∀ r v s, g (writeReg r v s) = g s)
    (hillegal : ∀ s, g (illegalCommand s) = g s) {s t : State} (h : turn s = .quiet t) :
    g t = g s ∨ ∃ rest, s.bus = .reset :: rest := by
  rcases turn_quiet_cases h with ⟨-, rfl⟩ | ⟨_, -, -, rfl⟩ | ⟨rest, hb, -⟩ | ⟨_, _, -, rfl⟩ | ⟨_, _, _, -, -, rfl⟩ |
    ⟨_, _, _, -, -, rfl⟩ | ⟨_, _, _, -, -, -, rfl⟩ | ⟨_, _, _, -, -, -, rfl⟩ | ⟨_, -, rfl⟩
  · exact .inl rfl
  · exact .inl (hevent s)
  · exact .inr ⟨rest, hb⟩
  · exact .inl ((hload ..).trans (hevent s))
  · exact .inl ((hmem ..).trans (hevent s))
  · exact .inl (hevent s)
  · exact .inl ((hreg ..).trans (hevent s))
  · exact .inl ((hillegal _).trans (hevent s))
  · exact .inl ((hpoll _).trans (hevent s))

/-- The state a step runs an instruction on is the one it starts from, but for the bus. -/
theorem turn_run_withBus {s t : State} {i : Instr} (h : turn s = .run i t) : ∃ b, t = { s with bus := b } := by
  rcases turn_run_cases h with ⟨-, rfl | ⟨rest, -, rfl⟩⟩ | ⟨_, rest, -, -, -, rfl⟩
  · exact ⟨_, rfl⟩
  · exact ⟨_, rfl⟩
  · exact ⟨_, rfl⟩

/-- A table micro-op runs only in a build. -/
theorem not_table_uop_of_turn_run {s t : State} {i : Instr} (h : turn s = .run i t)
    (hp : ¬(s.phase = .resetTgen ∨ s.phase = .tgen)) : (∀ x, i ≠ .uTgBase x) ∧ ∀ j x, i ≠ .uTgSlice j x := by
  obtain ⟨b, hb⟩ := turn_run_withBus h
  rcases turn_run_cases h with ⟨hn, -⟩ | ⟨_, _, -, hd, -, -⟩
  · rcases nextUop_phase_cases hn with ⟨hbuild, -⟩ | ⟨-, -, rfl⟩ | ⟨-, -, rfl⟩ | ⟨-, -, w, hw, -⟩
    · rw [hb] at hbuild; exact absurd hbuild hp
    · exact ⟨nofun, nofun⟩
    · exact ⟨nofun, nofun⟩
    · exact ⟨by rintro x rfl; (cases hw), by rintro j x rfl; (cases hw)⟩
  · have hcmd := isCommand_of_decodeCommand hd
    exact ⟨by rintro x rfl; (cases hcmd), by rintro j x rfl; (cases hcmd)⟩

/-- The writers of `TABLE` (10_state.md R27, 42_table_generator.md R138). -/
theorem step_table {s t : State} (h : step s = .next t)
    (hp : ¬(s.phase = .resetTgen ∨ s.phase = .tgen)) : t.table = s.table ∨ ∃ rest, s.bus = .reset :: rest := by
  rcases step_next_cases h with hq | ⟨i, u, v, hrun, he, rfl⟩
  · exact turn_quiet_keeps State.table (fun _ => rfl) (by simp) (by simp) (by simp) writeReg_table (by simp) hq
  · obtain ⟨hbase, hslice⟩ := not_table_uop_of_turn_run hrun hp
    obtain ⟨b, rfl⟩ := turn_run_withBus hrun
    have hv := exec_table hbase hslice he
    exact .inl ((advance_table i v).trans hv)

/-- Settles O50: `step_table` for the writers, `exec_withTableOf` for the readers. -/
theorem tableWritersAndReaders : Obligations.TableWritersAndReaders := by
  refine ⟨fun s t h hne => ?_, fun s tbl i hbase hslice hbyte hslice8 => ?_, fun s tbl x => rfl⟩
  · by_contra hno
    rw [not_or, not_or] at hno
    obtain ⟨hreset, htgen, hbus⟩ := hno
    exact (step_table h (not_or.2 ⟨hreset, htgen⟩)).elim hne hbus
  · exact exec_withTableOf tbl s hbase hslice hbyte hslice8

/-! ## Host stores and loads -/

theorem writeAddrHi_w32 {s : State} (h : s.cfg.addrW = .w32) (v : Word) : writeAddrHi v s = s := by
  unfold writeAddrHi; rw [h]

theorem writeAddrHi_w64 {s : State} (h : s.cfg.addrW = .w64) (v : Word) : writeAddrHi v s = { s with addrHi := v } := by
  unfold writeAddrHi; rw [h]

theorem writeLenHi_w32 {s : State} (h : s.cfg.addrW = .w32) (v : Word) : writeLenHi v s = s := by
  unfold writeLenHi; rw [h]

theorem writeLenHi_w64 {s : State} (h : s.cfg.addrW = .w64) (v : Word) : writeLenHi v s = { s with lenHi := v } := by
  unfold writeLenHi; rw [h]

/-- Settles O54: in FAULTED, while busy and in IDLE a store is what `turn_store_faulted`, `turn_store_busy` and
`turn_store_idle` say. -/
theorem hostStoresTakeEffect : Obligations.HostStoresTakeEffect := by
  intro s r v rest hb
  refine ⟨fun hp => step_quiet (turn_store_faulted hb hp), fun hbusy => ?_, fun hp => ?_⟩
  · obtain ⟨i, hn⟩ := Option.isSome_iff_exists.1 ((nextUop_isSome s).trans hbusy)
    have hstep : step s = mapNext (advance i) (exec i s) :=
      step_of_turn_run ((turn_store_busy hb hbusy).trans (engineTurn_of_nextUop hn))
    refine ⟨i, hn, hstep, fun t ht => ?_⟩
    obtain ⟨u, hu⟩ := exec_scheduled_next hn
    rw [hstep, hu] at ht
    cases ht
    rw [advance_bus, exec_bus hu]
  · have hother (hr : r ≠ .cmd) : step s = .next (writeReg r v (afterEvent s)) :=
      step_quiet ((turn_store_idle hb hp).trans (storeTurn_other hr v _))
    have hissue (hr : r = .cmd) : issues v s := ⟨hp, rest, hr ▸ hb⟩
    refine ⟨?_, ?_, ?_, ?_, ?_, ?_, ?_, fun hr i => step_issue_ok (hissue hr),
      fun hr e => step_issue_error (hissue hr), ?_⟩
    · rintro rfl; exact hother nofun
    · rintro rfl; exact hother nofun
    · rintro rfl h64; exact (hother nofun).trans (congrArg _ (writeAddrHi_w64 (s := afterEvent s) h64 v))
    · rintro rfl h32; exact (hother nofun).trans (congrArg _ (writeAddrHi_w32 (s := afterEvent s) h32 v))
    · rintro rfl; exact hother nofun
    · rintro rfl h64; exact (hother nofun).trans (congrArg _ (writeLenHi_w64 (s := afterEvent s) h64 v))
    · rintro rfl h32; exact (hother nofun).trans (congrArg _ (writeLenHi_w32 (s := afterEvent s) h32 v))
    · rintro (rfl | rfl | rfl | rfl | ⟨k, rfl⟩) <;> exact hother nofun

/-- An acceptance that starts a CALC leaves `RESULT`. -/
theorem acceptCalc_result_of_busy {hw : Bool} {f : FlagKind} {d : DataKind} {k : InitKind} {s : State}
    (hb : (acceptCalc hw f d k s).phase.busy = true) : (acceptCalc hw f d k s).result = s.result := by
  rcases acceptCalc_cases hw f d k s with ⟨-, e⟩ | ⟨-, -, e⟩ | ⟨-, -, -, -, e⟩ | ⟨-, -, -, -, e⟩ |
    ⟨-, -, -, -, e⟩ <;> rw [e] at hb ⊢
  · cases hb
  · cases hb
  · cases hb
  · cases hb
  · rfl

/-- An instruction that leaves the block busy leaves `RESULT`: whatever writes it also completes
(45_dispatch.md R209). -/
theorem exec_result_of_busy {i : Instr} {s t : State} (h : exec i s = .next t) (hb : t.phase.busy = true) :
    t.result = s.result := by
  by_cases hbuf : ∃ w, readWidth i = some w
  · obtain ⟨w, hw⟩ := hbuf
    obtain ⟨x, hx⟩ := exec_buffer_form hw s
    cases hx.symm.trans h
    exact bufferMicroOp_keeps State.result (by simp) (by simp) w x s
  · cases i with
    | featq => cases h; cases hb
    | tblgen => cases h; rfl
    | calcSw f d k => cases h; exact acceptCalc_result_of_busy hb
    | calcHw f d k => cases h; exact acceptCalc_result_of_busy hb
    | uTgBase x => cases h; rfl
    | uTgSlice j x => simp only [exec, execUTgSlice] at h; split at h <;> cases h; rfl
    | uInit => cases h; rfl
    | uFinal => cases h; cases hb
    | _ => exact absurd ⟨_, rfl⟩ hbuf

/-- The sequencer's move makes no idle block busy. -/
theorem busy_of_advance_busy {i : Instr} {s : State} (h : (advance i s).phase.busy = true) : s.phase.busy = true := by
  have build (j : BitVec 3) (x : BitVec 8) (hb : (advanceBuild j x s).phase.busy = true) : s.phase.busy = true := by
    rcases advanceBuild_cases j x s with ⟨-, e⟩ | ⟨-, -, e⟩ | ⟨-, -, e⟩ <;> rw [e] at hb
    · exact hb
    · exact hb
    · cases hb
  cases i with
  | uTgBase x => exact build _ _ h
  | uTgSlice j x => exact build _ _ h
  | _ => exact h

/-- Settles O55: a load is `hostLoad` in every phase, and no step that leaves the block busy has written `RESULT`. -/
theorem hostLoadsReturnCurrentValue : Obligations.HostLoadsReturnCurrentValue := by
  refine ⟨fun s r rest hb => step_quiet (turn_load hb), fun s t h hbusy hreset => ?_⟩
  rcases step_next_cases h with hq | ⟨i, u, v, hrun, he, rfl⟩
  · exact (turn_quiet_keeps State.result (fun _ => rfl) (by simp) (by simp) (by simp) writeReg_result (by simp)
      hq).resolve_right hreset
  · obtain ⟨b, rfl⟩ := turn_run_withBus hrun
    have hv := exec_result_of_busy he (busy_of_advance_busy hbusy)
    exact (advance_result i v).trans hv

/-! ## Registers and reset -/

theorem Phase.busy_iff {p : Phase} :
    p.busy = true ↔ p = .resetTgen ∨ p = .tgen ∨ p = .calcSw ∨ p = .calcHw := by
  cases p <;> decide

theorem Phase.fault_iff {p : Phase} : p.fault = true ↔ p = .faulted := by
  cases p <;> decide

/-- `STATUS` [1] is `TBL_READY` (10_state.md R24). -/
theorem statusWord_bit1 (s : State) : s.statusWord.getLsbD 1 = s.tblReady := by
  unfold State.statusWord
  cases s.err <;> cases s.phase.fault <;> cases s.tblReady <;> cases s.phase.busy <;> rfl

/-- `STATUS` [2] is `FAULT` (10_state.md R24). -/
theorem statusWord_bit2 (s : State) : s.statusWord.getLsbD 2 = s.phase.fault := by
  unfold State.statusWord
  cases s.err <;> cases s.phase.fault <;> cases s.tblReady <;> cases s.phase.busy <;> rfl

/-- `STATUS` [3] and [31:8] are 0 (10_state.md R24). -/
theorem statusWord_zeros (s : State) :
    s.statusWord.getLsbD 3 = false ∧ s.statusWord.extractLsb' 8 24 = 0#24 := by
  unfold State.statusWord
  cases s.err <;> cases s.phase.fault <;> cases s.tblReady <;> cases s.phase.busy <;> exact ⟨rfl, rfl⟩

/-- Settles O56: `readReg` is the map, and each field of `STATUS` has its lemma. -/
theorem registersReadAsTheMapSays : Obligations.RegistersReadAsTheMapSays := by
  intro s
  refine ⟨rfl, rfl, rfl, rfl, rfl, rfl, rfl, fun _ => rfl, fun h64 => ?_, fun h32 => ?_, ?_, ?_, ?_, ?_, ?_, ?_⟩
  · simp only [readReg, highHalf, h64, and_self]
  · simp only [readReg, highHalf, h32, and_self]
  · rw [statusWord_bit0, Phase.busy_iff]
  · exact statusWord_bit1 s
  · rw [statusWord_bit2, Phase.fault_iff]
  · exact (statusWord_zeros s).1
  · rw [statusWord_err]; cases s.err <;> rfl
  · exact (statusWord_zeros s).2

theorem statusWord_resetOn (p : Platform) : (State.resetOn p).statusWord = 0x00000001#32 := by
  show (0#24 ++ ErrCode.ok.toBits ++ 0#1 ++ BitVec.ofBool false ++ BitVec.ofBool false ++ BitVec.ofBool true : Word) = _
  decide

theorem statusWord_blockReset (s : State) : (blockReset s).statusWord = 0x00000001#32 := by
  rw [← statusWord_resetOn s.cfg]
  simp only [State.statusWord, blockReset_err, blockReset_phase, blockReset_tblReady]

/-- Settles O57: reset's step is `blockReset`, whose fields are those of `State.resetOn` on the same platform. -/
theorem resetGivesResetValues : Obligations.ResetGivesResetValues := by
  refine ⟨fun s rest hb => ⟨blockReset (afterEvent s), step_quiet (turn_reset hb), ?_⟩, ?_⟩
  · exact ⟨statusWord_blockReset _, rfl, rfl, rfl, rfl, rfl, rfl, rfl, rfl, rfl, rfl, rfl, rfl, rfl, rfl, rfl, rfl,
      by simp only [blockReset_bus, afterEvent, hb, List.tail_cons], rfl⟩
  · exact ⟨statusWord_resetOn Config.platform, rfl, rfl, rfl, rfl, rfl, rfl, rfl, rfl, rfl, rfl, rfl⟩

end Sys2Proof.Machine
end

section
/-! Buffer memory (20_memory.md): what a wide read's bits are, that a CALC reads its buffer only, what a U_FINAL
delivers, what an outside write does, and that no step outside a CALC depends on memory. -/

namespace Sys2Proof.Machine

/-! ## Wide reads -/

/-- Bit x of a wide read is bit x % 8 of the byte that x falls in (20_memory.md R61). -/
theorem getLsbD_memRead (m : Memory) {a n x : Nat} (hx : x < 8 * n) :
    (memRead m a n).getLsbD x = (m.read (a + x / 8)).getLsbD (x % 8) := by
  have hmod : x % 8 < 8 := Nat.mod_lt x (by decide)
  rw [← extractLsb'_memRead m (show x / 8 < n by omega), BitVec.getLsbD_extractLsb', Nat.div_add_mod,
    decide_eq_true hmod, Bool.true_and]

/-- A narrower read at the same address is the low part of a wide one (20_memory.md R63). -/
theorem extractLsb'_zero_memRead (m : Memory) (a : Nat) {n k : Nat} (hk : k ≤ n) :
    (memRead m a n).extractLsb' 0 (8 * k) = memRead m a k := by
  apply BitVec.eq_of_getLsbD_eq
  intro x hx
  rw [BitVec.getLsbD_extractLsb', Nat.zero_add, getLsbD_memRead m (show x < 8 * n by omega), getLsbD_memRead m hx,
    decide_eq_true hx, Bool.true_and]

/-- Settles O43: the bytes of a wide read, and its low part bit by bit. -/
theorem memReadIsLittleEndian : Obligations.MemReadIsLittleEndian :=
  fun m a _ _ hk => ⟨extractLsb'_memRead m hk, extractLsb'_zero_memRead m a hk.le⟩

/-! ## The reads of a CALC -/

theorem readWidth_buildNext (s : State) : readWidth (buildNext s) = none := by
  unfold buildNext
  split <;> rfl

/-- A scheduled micro-op reads memory only in a CALC (20_memory.md R60). -/
theorem inCalc_of_nextUop_reads {s : State} {i : Instr} {w : ReadWidth} (hn : nextUop s = some i)
    (hi : readWidth i = some w) : s.phase.inCalc = true := by
  rcases nextUop_phase_cases hn with ⟨-, rfl⟩ | ⟨hc, -⟩ | ⟨hc, -⟩ | ⟨hc, -⟩
  · rw [readWidth_buildNext] at hi; cases hi
  · exact hc
  · exact hc
  · exact hc

/-- A scheduled read is aligned, and no wider than what remains (20_memory.md R65). -/
theorem operandsFit_of_nextUop_reads {s : State} {i : Instr} {w : ReadWidth} (hn : nextUop s = some i)
    (hi : readWidth i = some w) : operandsFit w s = true := by
  rcases nextUop_fits hn with ⟨_, rfl, -⟩ | ⟨_, _, rfl, -⟩ | ⟨rfl, -⟩ | ⟨rfl, -⟩ | ⟨-, rfl, hfit⟩ | ⟨-, rfl, hfit⟩ |
    ⟨-, _, rfl, hfit⟩
  · cases hi
  · cases hi
  · cases hi
  · cases hi
  · cases hi; exact hfit
  · cases hi; exact hfit
  · rw [readWidth_hwFoldOf] at hi; cases hi; exact hfit

/-- Settles O38: the schedule makes the read fit what remains, and the invariant's range clause says that what remains
is the rest of the buffer. -/
theorem bufferReadsAlignedAndInside : Obligations.BufferReadsAlignedAndInside := by
  intro s i w h hn hi
  obtain ⟨hge, hsum, htop⟩ := h.calcRange (inCalc_of_nextUop_reads hn hi)
  obtain ⟨hrem, halign⟩ := operandsFit_iff.1 (operandsFit_of_nextUop_reads hn hi)
  exact ⟨halign, hge, by omega, hsum, htop⟩

/-! ## What U_FINAL delivers -/

/-- `RESULT` is a free value when the buffer was written meanwhile (20_memory.md R67). -/
theorem exec_uFinal_of_raced {s : State} (h : s.raced = true) :
    exec .uFinal s = .next (complete .ok (freeResult s)) := by
  simp only [exec, execUFinal, h, if_true]

theorem exec_uFinal_of_not_raced {s : State} (h : s.raced = false) :
    exec .uFinal s = .next (complete .ok { s with result := not32 s.acc }) := by
  simp only [exec, execUFinal, h, Bool.false_eq_true, if_false, not32]

/-- Settles O34: the statement writes out the completion of `freeResult`. -/
theorem racedCalcDeliversFreeValue : Obligations.RacedCalcDeliversFreeValue :=
  fun _ h => exec_uFinal_of_raced h

theorem not32_not32 (c : Word) : not32 (not32 c) = c := by
  unfold not32
  rw [BitVec.xor_assoc, BitVec.xor_self, BitVec.xor_zero]

/-- The complement form of `Crc32c`, which covers the empty sequence too (45_dispatch.md R210). -/
theorem crc32c_eq_not32_fold (c : Word) (bs : List Byte) : crc32c c bs = not32 (fold (not32 c) bs) := by
  cases bs with
  | nil => exact (not32_not32 c).symm
  | cons b bs => rfl

theorem buildNext_ne_uFinal (s : State) : buildNext s ≠ .uFinal := by
  unfold buildNext
  split <;> nofun

/-- U_FINAL is next only in a CALC that has folded its whole buffer. -/
theorem nextUop_uFinal {s : State} (hn : nextUop s = some .uFinal) :
    s.phase.inCalc = true ∧ s.stage = .loop ∧ s.rem = 0 := by
  obtain ⟨hc, hs⟩ : s.phase.inCalc = true ∧ s.stage = .loop := by
    rcases nextUop_phase_cases hn with ⟨-, e⟩ | ⟨-, -, e⟩ | ⟨hc, hs, -⟩ | ⟨-, -, _, hw, -⟩
    · exact absurd e.symm (buildNext_ne_uFinal s)
    · cases e
    · exact ⟨hc, hs⟩
    · cases hw
  rcases nextUop_fits hn with ⟨_, e, -⟩ | ⟨_, _, e, -⟩ | ⟨e, -⟩ | ⟨-, -, hrem⟩ | ⟨-, e, -⟩ | ⟨-, e, -⟩ | ⟨-, w, e, -⟩
  · cases e
  · cases e
  · cases e
  · exact ⟨hc, hs, hrem⟩
  · cases e
  · cases e
  · cases w <;> cases e

/-- Where U_FINAL is next, the accumulator is the fold of the whole buffer (43_software_engine.md R158,
44_hardware_engine.md R188). -/
theorem BlockInv.acc_at_uFinal {s : State} (h : BlockInv s) (hr : s.raced = false) (hn : nextUop s = some .uFinal) :
    s.acc = fold (not32 s.initLatch) (bufferBytes s) := by
  obtain ⟨hc, hs, hrem⟩ := nextUop_uFinal hn
  have hfold := h.calcFold hc hs hr
  rwa [hrem, bytesAt_zero, fold_nil] at hfold

/-- On the sequencer's turn the scheduled micro-op runs, whatever way the turn came about: only the bus differs. -/
theorem step_of_engineHasTurn {s : State} {i : Instr} (ht : engineHasTurn s) (hn : nextUop s = some i) :
    ∃ b, step s = mapNext (advance i) (exec i { s with bus := b }) := by
  obtain ⟨hnil, hengine, hstore⟩ := stepRunsScheduledMicroOp s i hn
  rcases ht with hb | ⟨rest, hb⟩ | ⟨-, r, v, rest, hb⟩
  · exact ⟨s.bus, hnil hb⟩
  · exact ⟨s.bus.tail, hengine rest hb⟩
  · exact ⟨s.bus, hstore r v rest hb⟩

/-- Settles O46: U_FINAL delivers the complement of the accumulator, which the invariant says is the fold of the whole
buffer. -/
theorem everyFinalDeliversCrc32c : Obligations.EveryFinalDeliversCrc32c := by
  intro s t h hr ht hn hstep
  have hcrc : not32 s.acc = crc32c s.initLatch (bufferBytes s) := by
    rw [h.acc_at_uFinal hr hn, crc32c_eq_not32_fold]
  obtain ⟨b, e⟩ := step_of_engineHasTurn ht hn
  rw [e, exec_uFinal_of_not_raced (s := { s with bus := b }) hr] at hstep
  cases hstep
  exact ⟨hcrc, rfl, rfl⟩

/-! ## Writes by other agents -/

theorem turn_memWrite {s : State} {a : Nat} {b : Byte} {rest : List BusEvent} (hb : s.bus = .memWrite a b :: rest)
    (ha : a < addrSpace s.cfg) : turn s = .quiet (hostMemWrite a b (afterEvent s)) := by
  unfold turn
  rw [hb]
  simp only [afterEvent, hb, List.tail_cons, if_pos ha]

theorem inBuffer_iff {s : State} {a : Nat} : inBuffer s a = true ↔ s.addr ≤ a ∧ a < s.addr + s.len := by
  simp only [inBuffer, Bool.and_eq_true, decide_eq_true_eq]

/-- The mark is set exactly by a write into a running CALC's buffer (20_memory.md R67). -/
theorem hostMemWrite_raced_iff (a : Nat) (b : Byte) (s : State) :
    (hostMemWrite a b s).raced = true ↔
      s.raced = true ∨ (s.phase.inCalc = true ∧ s.addr ≤ a ∧ a < s.addr + s.len) := by
  rw [hostMemWrite_raced, Bool.or_eq_true, Bool.and_eq_true, inBuffer_iff]

/-- Settles O58: inside memory the step is `hostMemWrite`, outside it the step stops where `turn` does. -/
theorem memoryWritesByOthers : Obligations.MemoryWritesByOthers := by
  refine fun s a b rest hb => ⟨fun hwf ha => ?_, fun ha => ?_⟩
  · refine ⟨_, step_quiet (turn_memWrite hb ha), ?_, fun x hx => ?_, Memory.wf_write hwf a b, rfl,
      hostMemWrite_raced_iff a b (afterEvent s)⟩
    · exact (Memory.read_write hwf a b a).trans (if_pos rfl)
    · exact (Memory.read_write hwf a b x).trans (if_neg hx)
  · exact step_fault_iff.2 (turn_fault_iff.2 ⟨rfl, a, b, rest, hb, ha⟩)

/-! ## Who writes memory, and who reads it -/

/-- Only an outside write changes memory (20_memory.md R60). -/
theorem step_mem {s t : State} (h : step s = .next t) (hb : ¬∃ a b rest, s.bus = .memWrite a b :: rest) :
    t.mem = s.mem := by
  rcases step_next_cases h with hq | ⟨i, u, v, hrun, he, rfl⟩
  · rcases turn_quiet_cases hq with ⟨-, rfl⟩ | ⟨_, -, -, rfl⟩ | ⟨_, -, rfl⟩ | ⟨_, _, -, rfl⟩ | ⟨a, b, rest, hw, -⟩ |
      ⟨_, _, _, -, -, rfl⟩ | ⟨r, v, _, -, -, -, rfl⟩ | ⟨_, _, _, -, -, -, rfl⟩ | ⟨_, -, rfl⟩
    · rfl
    · rfl
    · rfl
    · rfl
    · exact absurd ⟨a, b, rest, hw⟩ hb
    · rfl
    · exact writeReg_mem r v _
    · rfl
    · exact hostPoll_mem _
  · obtain ⟨_, rfl⟩ := turn_run_withBus hrun
    have hv := exec_mem he
    exact (advance_mem i v).trans hv

/-- A state with another memory in it. -/
def withMemOf (m : Memory) (s : State) : State := { s with mem := m }

theorem acceptCalc_withMemOf (m : Memory) (hw : Bool) (f : FlagKind) (d : DataKind) (k : InitKind) (s : State) :
    acceptCalc hw f d k (withMemOf m s) = withMemOf m (acceptCalc hw f d k s) := by
  unfold acceptCalc
  simp only [apply_ite (withMemOf m)]
  rfl

/-- An instruction that makes no buffer read does the same on any memory. -/
theorem exec_withMemOf (m : Memory) {i : Instr} (hi : readWidth i = none) (s : State) :
    exec i (withMemOf m s) = mapNext (withMemOf m) (exec i s) := by
  cases i with
  | featq => rfl
  | tblgen => rfl
  | calcSw f d k => exact congrArg _ (acceptCalc_withMemOf ..)
  | calcHw f d k => exact congrArg _ (acceptCalc_withMemOf ..)
  | uTgBase x => rfl
  | uTgSlice j x =>
    simp only [exec, execUTgSlice, apply_ite (mapNext (withMemOf m))]
    rfl
  | uInit => rfl
  | uFinal =>
    cases hr : s.raced with
    | true => rw [exec_uFinal_of_raced hr, exec_uFinal_of_raced (s := withMemOf m s) hr]; rfl
    | false => rw [exec_uFinal_of_not_raced hr, exec_uFinal_of_not_raced (s := withMemOf m s) hr]; rfl
  | _ => cases hi

theorem advance_withMemOf (m : Memory) (i : Instr) (s : State) :
    advance i (withMemOf m s) = withMemOf m (advance i s) := by
  have build (j : BitVec 3) (x : BitVec 8) : advanceBuild j x (withMemOf m s) = withMemOf m (advanceBuild j x s) := by
    unfold advanceBuild
    simp only [apply_ite (withMemOf m)]
    rfl
  cases i with
  | uTgBase x => exact build ..
  | uTgSlice j x => exact build ..
  | _ => rfl

theorem writeReg_withMemOf (m : Memory) (r : Reg) (v : Word) (s : State) :
    writeReg r v (withMemOf m s) = withMemOf m (writeReg r v s) := by
  cases r with
  | addrHi => cases h : s.cfg.addrW <;> simp only [writeReg, writeAddrHi, withMemOf, h]
  | lenHi => cases h : s.cfg.addrW <;> simp only [writeReg, writeLenHi, withMemOf, h]
  | _ => rfl

theorem hostPoll_withMemOf (m : Memory) (s : State) : hostPoll (withMemOf m s) = withMemOf m (hostPoll s) := by
  unfold hostPoll
  rw [apply_ite (withMemOf m)]
  rfl

/-- A turn with its state changed. -/
def Turn.map (f : State → State) : Turn → Turn
  | .run i s => .run i (f s)
  | .quiet s => .quiet (f s)
  | .fault r => .fault r
  | .refuse r => .refuse r

/-- The schedules do not look at memory. -/
theorem engineTurn_withMemOf (m : Memory) (s : State) :
    engineTurn (withMemOf m s) = (engineTurn s).map (withMemOf m) := by
  unfold engineTurn
  rw [show nextUop (withMemOf m s) = nextUop s from rfl]
  cases nextUop s <;> rfl

theorem storeTurn_withMemOf (m : Memory) (r : Reg) (v : Word) (s : State) :
    storeTurn r v (withMemOf m s) = (storeTurn r v s).map (withMemOf m) := by
  by_cases hr : r = .cmd
  · subst hr
    unfold storeTurn commandTurn
    cases decodeCommand v <;> rfl
  · rw [storeTurn_other hr, storeTurn_other hr, writeReg_withMemOf]
    rfl

theorem turn_poll {s : State} {rest : List BusEvent} (hb : s.bus = .poll :: rest) :
    turn s = .quiet (hostPoll (afterEvent s)) := by
  unfold turn; rw [hb]; simp only [afterEvent, hb, List.tail_cons]

/-- Who takes the next step, and with what, does not depend on memory, unless an agent writes it. -/
theorem turn_withMemOf (m : Memory) {s : State} (hb : ¬∃ a b rest, s.bus = .memWrite a b :: rest) :
    turn (withMemOf m s) = (turn s).map (withMemOf m) := by
  cases hbus : s.bus with
  | nil => rw [turn_nil hbus, turn_nil (s := withMemOf m s) hbus, engineTurn_withMemOf]
  | cons e rest =>
    cases e with
    | store r v =>
      cases hp : s.phase with
      | faulted => rw [turn_store_faulted hbus hp, turn_store_faulted (s := withMemOf m s) hbus hp]; rfl
      | idle =>
        rw [turn_store_idle hbus hp, turn_store_idle (s := withMemOf m s) hbus hp]
        exact storeTurn_withMemOf m r v (afterEvent s)
      | _ =>
        have hbusy : s.phase.busy = true := by rw [hp]; rfl
        rw [turn_store_busy hbus hbusy, turn_store_busy (s := withMemOf m s) hbus hbusy, engineTurn_withMemOf]
    | load r => rw [turn_load hbus, turn_load (s := withMemOf m s) hbus]; rfl
    | poll =>
      rw [turn_poll hbus, turn_poll (s := withMemOf m s) hbus]
      exact congrArg Turn.quiet (hostPoll_withMemOf m (afterEvent s))
    | subword =>
      rw [turn_refuse_iff.2 ⟨rfl, rest, hbus⟩, turn_refuse_iff (s := withMemOf m s) |>.2 ⟨rfl, rest, hbus⟩]
      rfl
    | memWrite a b => exact absurd ⟨a, b, rest, hbus⟩ hb
    | engine =>
      rw [turn_engine hbus, turn_engine (s := withMemOf m s) hbus]
      exact engineTurn_withMemOf m (afterEvent s)
    | reset => rw [turn_reset hbus, turn_reset (s := withMemOf m s) hbus]; rfl

theorem readWidth_eq_none_of_isCommand {i : Instr} (h : i.isCommand = true) : readWidth i = none := by
  cases i with
  | featq | tblgen | calcSw | calcHw => rfl
  | _ => cases h

/-- Outside a CALC no step runs an instruction that reads memory. -/
theorem readWidth_eq_none_of_turn_run {s t : State} {i : Instr} (h : turn s = .run i t) (hc : s.phase.inCalc = false) :
    readWidth i = none := by
  rcases turn_run_cases h with ⟨hn, -⟩ | ⟨_, _, -, hd, -⟩
  · obtain ⟨_, rfl⟩ := turn_run_withBus h
    refine Option.eq_none_iff_forall_ne_some.2 fun w hw => ?_
    have hcalc : s.phase.inCalc = true := inCalc_of_nextUop_reads hn hw
    rw [hc] at hcalc
    cases hcalc
  · exact readWidth_eq_none_of_isCommand (isCommand_of_decodeCommand hd)

theorem mapNext_comm {f g : State → State} (h : ∀ s, f (g s) = g (f s)) (o : Host.Outcome State Fault Refusal) :
    mapNext f (mapNext g o) = mapNext g (mapNext f o) := by
  cases o with
  | next s => exact congrArg _ (h s)
  | fault r => rfl
  | refused r => rfl

/-- Outside a CALC a step does the same whatever memory holds (20_memory.md R60). -/
theorem step_withMemOf (m : Memory) {s : State} (hc : s.phase.inCalc = false)
    (hb : ¬∃ a b rest, s.bus = .memWrite a b :: rest) : step (withMemOf m s) = mapNext (withMemOf m) (step s) := by
  have hturn := turn_withMemOf m hb
  cases ht : turn s with
  | run i t =>
    rw [ht] at hturn
    rw [step_of_turn_run ht, step_of_turn_run hturn, exec_withMemOf m (readWidth_eq_none_of_turn_run ht hc),
      mapNext_comm (advance_withMemOf m i)]
  | quiet t =>
    rw [ht] at hturn
    rw [step_quiet ht, step_quiet hturn]
    rfl
  | fault r =>
    rw [ht] at hturn
    rw [step_fault_iff.2 ht, step_fault_iff.2 hturn]
    rfl
  | refuse r =>
    rw [ht] at hturn
    rw [step_refused_iff.2 ht, step_refused_iff.2 hturn]
    rfl

/-- Settles O49: `step_mem` for the writers, `step_withMemOf` for the readers. -/
theorem engineOnlyReadsMemoryInCalc : Obligations.EngineOnlyReadsMemoryInCalc :=
  ⟨fun _ _ => step_mem, fun _ m => step_withMemOf m⟩

end Sys2Proof.Machine
end

section
/-! The encodings (30_encoding.md): a word or a label is determined by its fields, and what each decoder answers is said
in those fields. That the encoder inverts the decoders on both sides is read off from that. -/

namespace Sys2Proof

open Machine

/-! ## Fields -/

/-- A bit of a field is a bit of the word. -/
theorem getLsbD_eq_of_field_eq {n lo len x : Nat} {v w : BitVec n} (h : v.extractLsb' lo len = w.extractLsb' lo len)
    (hlo : lo ≤ x) (hx : x < lo + len) : v.getLsbD x = w.getLsbD x := by
  have hbit := congrArg (fun f => f.getLsbD (x - lo)) h
  simpa [show x - lo < len by omega, Nat.add_sub_cancel' hlo] using hbit

/-- The fields of a command word (R90) determine it. -/
theorem word_ext {v w : BitVec 32} (hop : v.extractLsb' 0 4 = w.extractLsb' 0 4)
    (hoperands : v.extractLsb' 4 8 = w.extractLsb' 4 8) (hhigh : v.extractLsb' 12 20 = w.extractLsb' 12 20) : v = w := by
  refine BitVec.eq_of_getLsbD_eq fun x hx => ?_
  by_cases h4 : x < 4
  · exact getLsbD_eq_of_field_eq hop (by omega) (by omega)
  by_cases h12 : x < 12
  · exact getLsbD_eq_of_field_eq hoperands (by omega) (by omega)
  · exact getLsbD_eq_of_field_eq hhigh (by omega) (by omega)

/-- The fields of a CALC word's operands (R90, R93) determine bits [11:4]. -/
theorem operands_ext {v w : BitVec 32} (h4 : v.getLsbD 4 = w.getLsbD 4) (h5 : v.getLsbD 5 = w.getLsbD 5)
    (hflag : v.extractLsb' 6 2 = w.extractLsb' 6 2) (hdata : v.extractLsb' 8 2 = w.extractLsb' 8 2)
    (hinit : v.extractLsb' 10 2 = w.extractLsb' 10 2) : v.extractLsb' 4 8 = w.extractLsb' 4 8 := by
  refine BitVec.eq_of_getLsbD_eq fun x hx => ?_
  rw [BitVec.getLsbD_extractLsb', BitVec.getLsbD_extractLsb', decide_eq_true hx, Bool.true_and, Bool.true_and]
  by_cases hx2 : x < 2
  · interval_cases x
    · exact h4
    · exact h5
  by_cases hx4 : x < 4
  · exact getLsbD_eq_of_field_eq hflag (by omega) (by omega)
  by_cases hx6 : x < 6
  · exact getLsbD_eq_of_field_eq hdata (by omega) (by omega)
  · exact getLsbD_eq_of_field_eq hinit (by omega) (by omega)

/-- A label whose reserved bit is 0 is the encoding of its fields (R99). -/
theorem encodeLabel_fields {l : BitVec 16} (h7 : l.getLsbD 7 = false) :
    encodeLabel (l.extractLsb' 8 8) (l.extractLsb' 4 3) (l.extractLsb' 0 4) = l := by
  refine BitVec.eq_of_getLsbD_eq fun x hx => ?_
  by_cases hx4 : x < 4
  · exact getLsbD_eq_of_field_eq (encodeLabel_ucode ..) (by omega) (by omega)
  by_cases hx7 : x < 7
  · exact getLsbD_eq_of_field_eq (encodeLabel_j ..) (by omega) (by omega)
  by_cases hx8 : x < 8
  · obtain rfl : x = 7 := by omega
    exact (encodeLabel_bit7 ..).trans h7.symm
  · exact getLsbD_eq_of_field_eq (encodeLabel_i ..) (by omega) (by omega)

/-! ## Command words (R90, R95) -/

/-- The fields of a command word without operands. -/
structure IsPlainWord (w : BitVec 32) (op : BitVec 4) : Prop where
  high     : w.extractLsb' 12 20 = 0#20
  bit5     : w.getLsbD 5 = false
  op       : w.extractLsb' 0 4 = op
  operands : w.extractLsb' 4 8 = 0#8

/-- The fields of a CALC word. -/
structure IsCalcWord (w : BitVec 32) (hw : Bool) (f : FlagKind) (d : DataKind) (k : InitKind) : Prop where
  high : w.extractLsb' 12 20 = 0#20
  bit5 : w.getLsbD 5 = false
  op   : w.extractLsb' 0 4 = 3#4
  path : w.getLsbD 4 = hw
  flag : w.extractLsb' 6 2 = f.toBits
  data : w.extractLsb' 8 2 = d.toBits
  init : w.extractLsb' 10 2 = k.toBits

/-- The CALC of a path. -/
def calcOn (hw : Bool) (f : FlagKind) (d : DataKind) (k : InitKind) : Instr :=
  if hw then .calcHw f d k else .calcSw f d k

theorem IsPlainWord.eq {v w : BitVec 32} {op : BitVec 4} (hv : IsPlainWord v op) (hw : IsPlainWord w op) : v = w :=
  word_ext (hv.op.trans hw.op.symm) (hv.operands.trans hw.operands.symm) (hv.high.trans hw.high.symm)

theorem IsCalcWord.eq {v w : BitVec 32} {hw : Bool} {f : FlagKind} {d : DataKind} {k : InitKind}
    (hv : IsCalcWord v hw f d k) (h : IsCalcWord w hw f d k) : v = w :=
  word_ext (hv.op.trans h.op.symm)
    (operands_ext (hv.path.trans h.path.symm) (hv.bit5.trans h.bit5.symm) (hv.flag.trans h.flag.symm)
      (hv.data.trans h.data.symm) (hv.init.trans h.init.symm))
    (hv.high.trans h.high.symm)

theorem isPlainWord_featq : IsPlainWord 0x00000001#32 1#4 := by constructor <;> decide

theorem isPlainWord_tblgen : IsPlainWord 0x00000002#32 2#4 := by constructor <;> decide

/-- There are 72 CALC words; each field is evaluated on each of them. -/
theorem isCalcWord_encodeCalc (hw : Bool) (f : FlagKind) (d : DataKind) (k : InitKind) :
    IsCalcWord (encodeCalc (BitVec.ofBool hw) f d k) hw f d k := by
  cases hw <;> cases f <;> cases d <;> cases k <;> constructor <;> decide

/-- Below the reserved bits `OP` picks the decoder. -/
theorem decodeCommand_of_not_reserved {w : BitVec 32} (hhigh : w.extractLsb' 12 20 = 0#20) (h5 : w.getLsbD 5 = false) :
    decodeCommand w =
      if w.extractLsb' 0 4 = 1#4 then decodePlain .featq w
      else if w.extractLsb' 0 4 = 2#4 then decodePlain .tblgen w
      else if w.extractLsb' 0 4 = 3#4 then decodeCalc w
      else .error .reservedOp :=
  if_neg (by rw [hhigh, h5]; nofun)

theorem decodePlain_eq_ok_iff {i k : Instr} {w : BitVec 32} :
    decodePlain k w = .ok i ↔ w.extractLsb' 4 8 = 0#8 ∧ i = k := by
  unfold decodePlain
  split
  next h => simp [h, eq_comm]
  next h => simp [h]

theorem decodeCalc_eq_ok_iff {i : Instr} {w : BitVec 32} :
    decodeCalc w = .ok i ↔ ∃ f k, w.extractLsb' 6 2 = f.toBits ∧ w.extractLsb' 10 2 = k.toBits ∧
      i = calcOn (w.getLsbD 4) f (DataKind.ofBits (w.extractLsb' 8 2)) k := by
  unfold decodeCalc calcOn
  simp only [← FlagKind.ofBits_eq_some, ← InitKind.ofBits_eq_some]
  cases FlagKind.ofBits (w.extractLsb' 6 2) with
  | none => simp
  | some f =>
    cases InitKind.ofBits (w.extractLsb' 10 2) with
    | none => simp
    | some k => cases w.getLsbD 4 <;> simp [eq_comm]

theorem decodeCommand_featq {w : BitVec 32} (h : IsPlainWord w 1#4) : decodeCommand w = .ok .featq := by
  rw [decodeCommand_of_not_reserved h.high h.bit5, h.op]
  exact decodePlain_eq_ok_iff.2 ⟨h.operands, rfl⟩

theorem decodeCommand_tblgen {w : BitVec 32} (h : IsPlainWord w 2#4) : decodeCommand w = .ok .tblgen := by
  rw [decodeCommand_of_not_reserved h.high h.bit5, h.op]
  exact decodePlain_eq_ok_iff.2 ⟨h.operands, rfl⟩

theorem decodeCommand_calc {w : BitVec 32} {hw : Bool} {f : FlagKind} {d : DataKind} {k : InitKind}
    (h : IsCalcWord w hw f d k) : decodeCommand w = .ok (calcOn hw f d k) := by
  rw [decodeCommand_of_not_reserved h.high h.bit5, h.op]
  exact decodeCalc_eq_ok_iff.2 ⟨f, k, h.flag, h.init, by rw [h.path, h.data, DataKind.ofBits_toBits]⟩

/-- Everything a command word can decode to. -/
theorem decodeCommand_ok_cases {w : BitVec 32} {i : Instr} (h : decodeCommand w = .ok i) :
    (i = .featq ∧ IsPlainWord w 1#4) ∨ (i = .tblgen ∧ IsPlainWord w 2#4) ∨
    ∃ hw f d k, i = calcOn hw f d k ∧ IsCalcWord w hw f d k := by
  by_cases hres : w.extractLsb' 12 20 ≠ 0#20 ∨ w.getLsbD 5 = true
  · cases (if_pos hres).symm.trans h
  obtain ⟨hhigh, h5⟩ : w.extractLsb' 12 20 = 0#20 ∧ w.getLsbD 5 = false := by simpa [not_or] using hres
  rw [decodeCommand_of_not_reserved hhigh h5] at h
  split at h
  next hop =>
    obtain ⟨hoperands, rfl⟩ := decodePlain_eq_ok_iff.1 h
    exact .inl ⟨rfl, hhigh, h5, hop, hoperands⟩
  split at h
  next hop =>
    obtain ⟨hoperands, rfl⟩ := decodePlain_eq_ok_iff.1 h
    exact .inr (.inl ⟨rfl, hhigh, h5, hop, hoperands⟩)
  split at h
  next hop =>
    obtain ⟨f, k, hflag, hinit, rfl⟩ := decodeCalc_eq_ok_iff.1 h
    exact .inr (.inr ⟨_, f, _, k, rfl, hhigh, h5, hop, rfl, hflag, (DataKind.toBits_ofBits _).symm, hinit⟩)
  next => cases h

/-! ## Labels (R99, R100) -/

/-- A label without operands decodes to its micro-op only if it is that micro-op's encoding. -/
theorem encode_of_decodeBare {i k : Instr} {l : BitVec 16} {u : BitVec 4} (hwf : k.wf = true)
    (hk : encode k = .label (encodeLabel 0#8 0#3 u)) (h7 : l.getLsbD 7 = false) (hu : l.extractLsb' 0 4 = u)
    (h : decodeBare k l = .ok i) : i.wf = true ∧ encode i = .label l := by
  unfold decodeBare at h
  split at h
  next => cases h
  next hj =>
    split at h
    next => cases h
    next hi =>
      cases h
      rw [not_not] at hj hi
      exact ⟨hwf, by rw [hk, ← hj, ← hi, ← hu, encodeLabel_fields h7]⟩

theorem encode_of_decodeTgBase {i : Instr} {l : BitVec 16} (h7 : l.getLsbD 7 = false) (hu : l.extractLsb' 0 4 = 1#4)
    (h : decodeTgBase l = .ok i) : i.wf = true ∧ encode i = .label l := by
  unfold decodeTgBase at h
  split at h
  next => cases h
  next hj =>
    cases h
    rw [not_not] at hj
    exact ⟨rfl, by rw [encode, ← hj, ← hu, encodeLabel_fields h7]⟩

theorem encode_of_decodeTgSlice {i : Instr} {l : BitVec 16} (h7 : l.getLsbD 7 = false) (hu : l.extractLsb' 0 4 = 2#4)
    (h : decodeTgSlice l = .ok i) : i.wf = true ∧ encode i = .label l := by
  unfold decodeTgSlice at h
  split at h
  next => cases h
  next hj =>
    cases h
    exact ⟨bne_iff_ne.2 hj, by rw [encode, ← hu, encodeLabel_fields h7]⟩

/-- What a label decodes to is well formed and has that label. -/
theorem encode_of_decodeLabel {i : Instr} {l : BitVec 16} (h : decodeLabel l = .ok i) :
    i.wf = true ∧ encode i = .label l := by
  unfold decodeLabel at h
  split at h
  next => cases h
  next h7 =>
    rw [Bool.not_eq_true] at h7
    split at h
    next hu => exact encode_of_decodeTgBase h7 hu h
    split at h
    next hu => exact encode_of_decodeTgSlice h7 hu h
    iterate 8
      split at h
      next hu => exact encode_of_decodeBare rfl rfl h7 hu h
    cases h

/-! ## The statements -/

/-- Settles O1: a command word has the fields of its command, and a label has the fields it is put together from. -/
theorem decodeOfEncode : Obligations.DecodeOfEncode := by
  intro i hwf
  cases i with
  | featq => exact decodeCommand_featq isPlainWord_featq
  | tblgen => exact decodeCommand_tblgen isPlainWord_tblgen
  | calcSw f d k => exact decodeCommand_calc (isCalcWord_encodeCalc false f d k)
  | calcHw f d k => exact decodeCommand_calc (isCalcWord_encodeCalc true f d k)
  | uTgBase x => simp [encode, decode, decodeLabel, decodeTgBase]
  | uTgSlice j x =>
    have hj : j ≠ 0#3 := bne_iff_ne.1 hwf
    simp [encode, decode, decodeLabel, decodeTgSlice, hj]
  | _ => simp [encode, decode, decodeLabel, decodeBare]

/-- Settles O2: a word or a label that decodes has the fields of the instruction, and those determine it. -/
theorem encodeOfDecode : Obligations.EncodeOfDecode := by
  intro e i h
  cases e with
  | label l => exact encode_of_decodeLabel h
  | command w =>
    rcases decodeCommand_ok_cases h with ⟨rfl, hw⟩ | ⟨rfl, hw⟩ | ⟨hw, f, d, k, rfl, hfields⟩
    · exact ⟨rfl, congrArg _ (isPlainWord_featq.eq hw)⟩
    · exact ⟨rfl, congrArg _ (isPlainWord_tblgen.eq hw)⟩
    · have hword := (isCalcWord_encodeCalc hw f d k).eq hfields
      cases hw <;> exact ⟨rfl, congrArg _ hword⟩

theorem isPlainWord_iff {w : BitVec 32} {op : BitVec 4} :
    IsPlainWord w op ↔
      w.extractLsb' 12 20 = 0#20 ∧ w.getLsbD 5 = false ∧ w.extractLsb' 0 4 = op ∧ w.extractLsb' 4 8 = 0#8 :=
  ⟨fun ⟨h, b, o, z⟩ => ⟨h, b, o, z⟩, fun ⟨h, b, o, z⟩ => ⟨h, b, o, z⟩⟩

theorem isCalcWord_iff {w : BitVec 32} {hw : Bool} {f : FlagKind} {d : DataKind} {k : InitKind} :
    IsCalcWord w hw f d k ↔
      w.extractLsb' 12 20 = 0#20 ∧ w.getLsbD 5 = false ∧ w.extractLsb' 0 4 = 3#4 ∧ w.getLsbD 4 = hw ∧
      w.extractLsb' 6 2 = f.toBits ∧ w.extractLsb' 8 2 = d.toBits ∧ w.extractLsb' 10 2 = k.toBits :=
  ⟨fun ⟨h, b, o, p, f, d, k⟩ => ⟨h, b, o, p, f, d, k⟩, fun ⟨h, b, o, p, f, d, k⟩ => ⟨h, b, o, p, f, d, k⟩⟩

theorem calcOn_inj {hw hw' : Bool} {f f' : FlagKind} {d d' : DataKind} {k k' : InitKind} :
    calcOn hw f d k = calcOn hw' f' d' k' ↔ hw = hw' ∧ f = f' ∧ d = d' ∧ k = k' := by
  cases hw <;> cases hw' <;> simp [calcOn]

theorem calcOn_ne_plain (hw : Bool) (f : FlagKind) (d : DataKind) (k : InitKind) :
    calcOn hw f d k ≠ .featq ∧ calcOn hw f d k ≠ .tblgen := by
  cases hw <;> simp [calcOn]

theorem decodeCommand_eq_featq_iff {w : BitVec 32} : decodeCommand w = .ok .featq ↔ IsPlainWord w 1#4 := by
  refine ⟨fun h => ?_, decodeCommand_featq⟩
  rcases decodeCommand_ok_cases h with ⟨-, hw⟩ | ⟨e, -⟩ | ⟨_, _, _, _, e, -⟩
  · exact hw
  · cases e
  · exact absurd e.symm (calcOn_ne_plain ..).1

theorem decodeCommand_eq_tblgen_iff {w : BitVec 32} : decodeCommand w = .ok .tblgen ↔ IsPlainWord w 2#4 := by
  refine ⟨fun h => ?_, decodeCommand_tblgen⟩
  rcases decodeCommand_ok_cases h with ⟨e, -⟩ | ⟨-, hw⟩ | ⟨_, _, _, _, e, -⟩
  · cases e
  · exact hw
  · exact absurd e.symm (calcOn_ne_plain ..).2

theorem decodeCommand_eq_calcOn_iff {w : BitVec 32} {hw : Bool} {f : FlagKind} {d : DataKind} {k : InitKind} :
    decodeCommand w = .ok (calcOn hw f d k) ↔ IsCalcWord w hw f d k := by
  refine ⟨fun h => ?_, decodeCommand_calc⟩
  rcases decodeCommand_ok_cases h with ⟨e, -⟩ | ⟨e, -⟩ | ⟨_, _, _, _, e, hfields⟩
  · exact absurd e (calcOn_ne_plain ..).1
  · exact absurd e (calcOn_ne_plain ..).2
  · obtain ⟨rfl, rfl, rfl, rfl⟩ := calcOn_inj.1 e
    exact hfields

/-- Settles O3: each answer of `decodeCommand` has the fields of its word, and a rejected word's step is
`step_issue_error`. -/
theorem commandDecodeFunction : Obligations.CommandDecodeFunction := by
  refine ⟨fun w => ⟨?_, ?_, fun f d k => ?_, fun f d k => ?_, fun i => isCommand_of_decodeCommand⟩,
    fun s w e => step_issue_error⟩
  · exact decodeCommand_eq_featq_iff.trans isPlainWord_iff
  · exact decodeCommand_eq_tblgen_iff.trans isPlainWord_iff
  · exact (decodeCommand_eq_calcOn_iff (hw := false)).trans isCalcWord_iff
  · exact (decodeCommand_eq_calcOn_iff (hw := true)).trans isCalcWord_iff

theorem decodePlain_error_iff {k : Instr} {w : BitVec 32} :
    (∃ e, decodePlain k w = .error e) ↔ w.extractLsb' 4 8 ≠ 0#8 := by
  unfold decodePlain
  split
  next h => simp [h]
  next h => simp [h]

theorem decodeCalc_error_iff {w : BitVec 32} :
    (∃ e, decodeCalc w = .error e) ↔ w.extractLsb' 6 2 = 3#2 ∨ w.extractLsb' 10 2 = 3#2 := by
  rw [← FlagKind.ofBits_eq_none, ← InitKind.ofBits_eq_none]
  unfold decodeCalc
  cases FlagKind.ofBits (w.extractLsb' 6 2) with
  | none => simp
  | some f =>
    cases InitKind.ofBits (w.extractLsb' 10 2) with
    | none => simp
    | some k => cases w.getLsbD 4 <;> simp

/-- The reserved values of `OP` are those of no command (R91, R94). -/
theorem reservedOp_iff (op : BitVec 4) : op = 0#4 ∨ 4 ≤ op.toNat ↔ op ≠ 1#4 ∧ op ≠ 2#4 ∧ op ≠ 3#4 := by
  revert op; decide

/-- Settles O4: a reserved bit rejects the word at once, and without one `OP` picks what is checked. -/
theorem reservedWordsAreIllegal : Obligations.ReservedWordsAreIllegal := by
  intro w
  by_cases hres : w.extractLsb' 12 20 ≠ 0#20 ∨ w.getLsbD 5 = true
  · exact iff_of_true ⟨_, if_pos hres⟩ (hres.elim (fun h => .inr (.inl h)) .inl)
  obtain ⟨hhigh, h5⟩ : w.extractLsb' 12 20 = 0#20 ∧ w.getLsbD 5 = false := by simpa [not_or] using hres
  rw [decodeCommand_of_not_reserved hhigh h5, h5, hhigh, ← or_assoc (a := w.extractLsb' 0 4 = 0#4), reservedOp_iff]
  by_cases h1 : w.extractLsb' 0 4 = 1#4
  · simp [h1, decodePlain_error_iff]
  by_cases h2 : w.extractLsb' 0 4 = 2#4
  · simp [h2, decodePlain_error_iff]
  by_cases h3 : w.extractLsb' 0 4 = 3#4
  · simp [h3, decodeCalc_error_iff]
  · simp [h1, h2, h3]

/-- The formula of R97 leaves `USE_HW` out on the software path. -/
theorem encodeCalc_sw (f : FlagKind) (d : DataKind) (k : InitKind) :
    encodeCalc 0#1 f d k =
      3#32 ||| f.toBits.setWidth 32 <<< 6 ||| d.toBits.setWidth 32 <<< 8 ||| k.toBits.setWidth 32 <<< 10 := by
  simp [encodeCalc]

/-- Settles O5: the formula is the encoder's, so `decodeOfEncode` decodes it; the written-out words are evaluated. -/
theorem canonicalWordsAndLabels : Obligations.CanonicalWordsAndLabels := by
  refine ⟨?_, ?_, ?_, ?_, ?_, ?_, ?_, ?_, fun f d k => ⟨?_, ?_⟩, ?_, ?_, ?_, ?_, ?_, ?_, ?_, ?_, ?_, ?_, ?_⟩
  case refine_9 => rw [← encodeCalc_sw]; exact decodeOfEncode (.calcSw f d k) rfl
  case refine_10 => exact decodeOfEncode (.calcHw f d k) rfl
  all_goals decide

end Sys2Proof
end

section
/-! Host programs (30_encoding.md R104): what the stores of `crc.setbuf` leave, how long the sequencer can stay busy and
so that the loop of `crc.wait` ends, and what a CALC that nobody disturbs has left when it does. -/

namespace Sys2Proof.Machine

/-! ## Events in front of a state -/

/-- A state with other events to come. -/
def withBusOf (b : List BusEvent) (s : State) : State := { s with bus := b }

theorem eq_withBusOf {s : State} {b : List BusEvent} (h : s.bus = b) : s = withBusOf b s := by
  subst h; rfl

theorem steps_withBusOf {s : State} {b : List BusEvent} (h : s.bus = b) (k : Nat) :
    steps k s = steps k (withBusOf b s) :=
  congrArg (steps k) (eq_withBusOf h)

theorem writeReg_withBusOf (r : Reg) (v : Word) (b : List BusEvent) (s : State) :
    writeReg r v (withBusOf b s) = withBusOf b (writeReg r v s) := by
  cases r with
  | addrHi => cases h : s.cfg.addrW <;> simp only [writeReg, writeAddrHi, withBusOf, h]
  | lenHi => cases h : s.cfg.addrW <;> simp only [writeReg, writeLenHi, withBusOf, h]
  | _ => rfl

/-- A store to an idle block takes one step (10_state.md R57(c)). -/
theorem steps_store {s : State} (hp : s.phase = .idle) {r : Reg} (hr : r ≠ .cmd) (v : Word) (b : List BusEvent)
    (k : Nat) : steps (k + 1) (withBusOf (.store r v :: b) s) = steps k (withBusOf b (writeReg r v s)) := by
  have hturn : turn (withBusOf (.store r v :: b) s) = .quiet (writeReg r v (withBusOf b s)) :=
    (turn_store_idle (s := withBusOf (.store r v :: b) s) rfl hp).trans (storeTurn_other hr v _)
  rw [steps_succ_next (step_quiet hturn), writeReg_withBusOf]

theorem acceptCalc_withBusOf (b : List BusEvent) (hw : Bool) (f : FlagKind) (d : DataKind) (k : InitKind) (s : State) :
    acceptCalc hw f d k (withBusOf b s) = withBusOf b (acceptCalc hw f d k s) := by
  unfold acceptCalc
  simp only [apply_ite (withBusOf b)]
  rfl

/-- A load takes one step in every phase (10_state.md R56). -/
theorem steps_load (s : State) (r : Reg) (b : List BusEvent) (k : Nat) :
    steps (k + 1) (withBusOf (.load r :: b) s) = steps k (withBusOf b (hostLoad r s)) :=
  steps_succ_next (step_quiet (turn_load rfl)) k

/-! ## crc.setbuf -/

/-- What the four stores of `crc.setbuf` leave. -/
def setbuf (a n : BitVec 64) (s : State) : State :=
  writeReg .lenHi (n.extractLsb' 32 32) (writeReg .lenLo (n.extractLsb' 0 32)
    (writeReg .addrHi (a.extractLsb' 32 32) (writeReg .addrLo (a.extractLsb' 0 32) s)))

theorem setbuf_w64 {s : State} (h : s.cfg.addrW = .w64) (a n : BitVec 64) :
    setbuf a n s = { s with
      addrLo := a.extractLsb' 0 32, addrHi := a.extractLsb' 32 32
      lenLo := n.extractLsb' 0 32, lenHi := n.extractLsb' 32 32 } := by
  simp only [setbuf, writeReg, writeAddrHi, writeLenHi, h]

theorem setbuf_w32 {s : State} (h : s.cfg.addrW = .w32) (a n : BitVec 64) :
    setbuf a n s = { s with addrLo := a.extractLsb' 0 32, lenLo := n.extractLsb' 0 32 } := by
  simp only [setbuf, writeReg, writeAddrHi, writeLenHi, h]

theorem setbuf_phase (a n : BitVec 64) (s : State) : (setbuf a n s).phase = s.phase := by
  simp only [setbuf, writeReg_phase]

theorem setbuf_cfg (a n : BitVec 64) (s : State) : (setbuf a n s).cfg = s.cfg := by
  simp only [setbuf, writeReg_cfg]

theorem setbuf_mem (a n : BitVec 64) (s : State) : (setbuf a n s).mem = s.mem := by
  simp only [setbuf, writeReg_mem]

theorem setbuf_loads (a n : BitVec 64) (s : State) : (setbuf a n s).loads = s.loads := by
  simp only [setbuf, writeReg_loads]

theorem BlockInv.keeps_setbuf {s : State} (h : BlockInv s) (hp : s.phase = .idle) (a n : BitVec 64) :
    BlockInv (setbuf a n s) := by
  refine BlockInv.keeps_writeReg (BlockInv.keeps_writeReg (BlockInv.keeps_writeReg (h.keeps_writeReg hp ..) ?_ ..) ?_ ..)
    ?_ .. <;> simp only [writeReg_phase, hp]

theorem toNat_high_append_low (hi lo : Word) : (hi ++ lo).toNat = 2 ^ 32 * hi.toNat + lo.toNat := by
  rw [BitVec.toNat_append, ← Nat.shiftLeft_add_eq_or_of_lt lo.isLt, Nat.shiftLeft_eq, Nat.mul_comm]

theorem low_half_toNat (hi : Word) (a : BitVec 64) : (hi ++ a.extractLsb' 0 32).toNat % 2 ^ 32 = a.toNat % 2 ^ 32 := by
  simp only [toNat_high_append_low, BitVec.extractLsb'_toNat, Nat.shiftRight_zero]
  omega

theorem halves_toNat (a : BitVec 64) : (a.extractLsb' 32 32 ++ a.extractLsb' 0 32).toNat = a.toNat := by
  have := a.isLt
  simp only [toNat_high_append_low, BitVec.extractLsb'_toNat]
  omega

/-- The buffer a host has set, modulo the address space (R96). -/
theorem setbuf_buffer (a n : BitVec 64) (s : State) :
    (setbuf a n s).addr = a.toNat % addrSpace s.cfg ∧ (setbuf a n s).len = n.toNat % addrSpace s.cfg := by
  cases h : s.cfg.addrW with
  | w32 => simp only [setbuf_w32 h, State.addr, State.len, addrSpace, h, AddrWidth.bits, low_half_toNat, and_self]
  | w64 => simp only [setbuf_w64 h, State.addr, State.len, addrSpace, h, halves_toNat, and_self]

theorem steps_crcSetbuf {s : State} (hp : s.phase = .idle) (a n : BitVec 64) (b : List BusEvent) (k : Nat) :
    steps (k + 4) (withBusOf (crcSetbuf a n ++ b) s) = steps k (withBusOf b (setbuf a n s)) := by
  calc steps (k + 4) (withBusOf (crcSetbuf a n ++ b) s)
    _ = steps (k + 3) (withBusOf (busW 0x14 _ :: busW 0x18 _ :: busW 0x1C _ :: b) (writeReg .addrLo _ s)) :=
      steps_store (r := .addrLo) hp nofun ..
    _ = steps (k + 2) (withBusOf (busW 0x18 _ :: busW 0x1C _ :: b) (writeReg .addrHi _ _)) :=
      steps_store (r := .addrHi) (by simp only [writeReg_phase, hp]) nofun ..
    _ = steps (k + 1) (withBusOf (busW 0x1C _ :: b) (writeReg .lenLo _ _)) :=
      steps_store (r := .lenLo) (by simp only [writeReg_phase, hp]) nofun ..
    _ = steps k (withBusOf b (setbuf a n s)) :=
      steps_store (r := .lenHi) (by simp only [writeReg_phase, hp]) nofun ..

/-! ## crc.available -/

/-- On an idle block a completion leaves `PHASE` as it is (41_feature_detector.md R120). -/
theorem complete_of_idle {s : State} (hp : s.phase = .idle) (c : ErrCode) : complete c s = { s with err := c } := by
  unfold complete
  rw [← hp]

theorem steps_crcAvailable {s : State} (hp : s.phase = .idle) (b : List BusEvent) :
    steps 2 (withBusOf (crcAvailable ++ b) s) = .next { s with
      bus := b
      err := .ok
      result := if hwPresent s.cfg = true then 1#32 else 0#32
      loads := s.loads ++ [if hwPresent s.cfg = true then 1#32 else 0#32] } := by
  have hissue : issues 1#32 (withBusOf (crcAvailable ++ b) s) := ⟨hp, _, rfl⟩
  have hflag : (BitVec.ofBool (hwPresent s.cfg)).setWidth 32 = if hwPresent s.cfg = true then 1#32 else 0#32 := by
    cases hwPresent s.cfg <;> rfl
  have hdone : exec .featq (afterEvent (withBusOf (crcAvailable ++ b) s)) = .next (withBusOf (.load .result :: b)
      { s with err := .ok, result := (BitVec.ofBool (hwPresent s.cfg)).setWidth 32 }) :=
    congrArg Host.Outcome.next (complete_of_idle (s := { s with
      bus := .load .result :: b, err := .ok, result := (BitVec.ofBool (hwPresent s.cfg)).setWidth 32 }) hp .ok)
  rw [steps_succ_next ((step_issue_ok hissue (decodeCommand_featq isPlainWord_featq)).trans hdone), ← hflag]
  exact steps_load _ .result b 0

/-! ## crc.wait -/

/-- One turn of the loop: it loads `STATUS`, and bit 0 says whether it goes on. -/
theorem step_poll (s : State) (rest : List BusEvent) :
    step (withBusOf (.poll :: rest) s) =
      .next (withBusOf (if s.statusWord.getLsbD 0 = true then .engine :: .poll :: rest else rest)
        (hostLoad .status s)) := by
  rw [step_quiet (turn_poll rfl)]
  show Host.Outcome.next (if s.statusWord.getLsbD 0 = true then _ else _) = _
  split <;> rfl

/-- A bound on the micro-ops to come before the block is no longer busy: the entries of a build, and of a CALC one
micro-op for every byte left at most, U_FINAL, and U_INIT. -/
def turnsLeft (s : State) : Nat :=
  match s.phase with
  | .resetTgen | .tgen => 2048 - (256 * s.tgJ.toNat + s.tgI.toNat)
  | .calcSw | .calcHw =>
    match s.stage with
    | .first => s.rem + 2
    | .loop => s.rem + 1
  | .idle | .faulted => 0

theorem turnsLeft_of_not_busy {s : State} (h : s.phase.busy = false) : turnsLeft s = 0 := by
  cases hp : s.phase <;> simp_all [turnsLeft, Phase.busy]

theorem turnsLeft_build {s : State} (hp : s.phase = .resetTgen ∨ s.phase = .tgen) :
    turnsLeft s = 2048 - (256 * s.tgJ.toNat + s.tgI.toNat) := by
  rcases hp with hp | hp <;> simp only [turnsLeft, hp]

theorem turnsLeft_first {s : State} (hc : s.phase.inCalc = true) (hs : s.stage = .first) : turnsLeft s = s.rem + 2 := by
  rcases Phase.inCalc_iff.1 hc with hp | hp <;> simp only [turnsLeft, hp, hs]

theorem turnsLeft_loop {s : State} (hc : s.phase.inCalc = true) (hs : s.stage = .loop) : turnsLeft s = s.rem + 1 := by
  rcases Phase.inCalc_iff.1 hc with hp | hp <;> simp only [turnsLeft, hp, hs]

/-- A scheduled table micro-op writes only `TABLE`. -/
theorem exec_buildNext_table {s t : State} (h : exec (buildNext s) s = .next t) : ∃ tbl, t = { s with table := tbl } := by
  unfold buildNext at h
  split at h
  next => cases h; exact ⟨_, rfl⟩
  next hj =>
    simp only [exec, execUTgSlice, if_neg hj] at h
    cases h; exact ⟨_, rfl⟩

/-- The counters of a build move on, or the build ends (42_table_generator.md R134, R136). -/
theorem turnsLeft_advanceBuild {s : State} (hp : s.phase = .resetTgen ∨ s.phase = .tgen) :
    turnsLeft (advanceBuild s.tgJ s.tgI s) < turnsLeft s := by
  have hj := s.tgJ.isLt
  have hi := s.tgI.isLt
  rcases advanceBuild_cases s.tgJ s.tgI s with ⟨hne, e⟩ | ⟨hlast, hne, e⟩ | ⟨-, -, e⟩ <;>
    rw [e, turnsLeft_build hp]
  · have hnext : (s.tgI + 1#8).toNat = s.tgI.toNat + 1 := by bv_omega
    refine lt_of_eq_of_lt (turnsLeft_build hp) ?_
    simp only [hnext]
    omega
  · have hnext : (s.tgJ + 1#3).toNat = s.tgJ.toNat + 1 := by bv_omega
    refine lt_of_eq_of_lt (turnsLeft_build hp) ?_
    simp only [hnext, hlast, BitVec.toNat_ofNat]
    omega
  · rw [turnsLeft_of_not_busy rfl]
    omega

/-- Every micro-op brings the end of what is running nearer. -/
theorem turnsLeft_advance {s t : State} {i : Instr} (hn : nextUop s = some i) (he : exec i s = .next t) :
    turnsLeft (advance i t) < turnsLeft s := by
  rcases nextUop_phase_cases hn with ⟨hp, rfl⟩ | ⟨hc, hs, rfl⟩ | ⟨hc, hs, rfl⟩ | ⟨hc, hs, w, hi, hw⟩
  · obtain ⟨tbl, rfl⟩ := exec_buildNext_table he
    rw [advance_buildNext]
    exact turnsLeft_advanceBuild (s := { s with table := tbl }) hp
  · cases he
    rw [turnsLeft_first hc hs]
    exact lt_of_eq_of_lt (turnsLeft_loop hc rfl) (Nat.lt_succ_self _)
  · cases he
    rw [turnsLeft_loop hc hs, turnsLeft_of_not_busy rfl]
    exact Nat.succ_pos _
  · obtain ⟨x, hx⟩ := exec_buffer_form hi s
    cases hx.symm.trans he
    rw [advance_buffer hi, turnsLeft_loop hc hs]
    rcases bufferMicroOp_cases w x s with ⟨-, e⟩ | ⟨-, e⟩ <;> rw [e]
    · have hpos := ReadWidth.bytes_pos w
      rw [turnsLeft_loop (s := consume w x s) hc hs, consume_rem, remAfter_of_le hw]
      omega
    · rw [turnsLeft_of_not_busy (by rw [raiseFault_phase]; rfl)]
      exact Nat.succ_pos _

/-- A turn of the loop on a busy block: the sequencer runs its micro-op and the loop stands where it stood. -/
theorem steps_poll_busy {s : State} (rest : List BusEvent) {i : Instr} {t : State} (hn : nextUop s = some i)
    (ht : exec i (withBusOf (.poll :: rest) (hostLoad .status s)) = .next t) :
    steps 2 (withBusOf (.poll :: rest) s) = .next (advance i t) := by
  have hpoll := step_poll s rest
  rw [statusWord_bit0, busy_of_nextUop hn, if_pos rfl] at hpoll
  have hengine := (stepRunsScheduledMicroOp (withBusOf (.engine :: .poll :: rest) (hostLoad .status s)) i hn).2.1 _ rfl
  rw [steps_succ_next hpoll]
  exact steps_succ_next (hengine.trans (congrArg (mapNext (advance i)) ht)) 0

/-- The loop of `crc.wait` ends, and keeps what neither the host's loads nor a micro-op changes. -/
theorem crcWait_ends {P : State → Prop} (hhost : ∀ s b, P s → P (withBusOf b (hostLoad .status s)))
    (hop : ∀ s t i, P s → nextUop s = some i → exec i s = .next t → P (advance i t)) (rest : List BusEvent)
    {s : State} (h : P s) :
    ∃ (k : Nat) (t : State) (pre : List Word) (v : Word), steps k (withBusOf (.poll :: rest) s) = .next t ∧
      t.bus = rest ∧ t.phase.busy = false ∧ t.loads = s.loads ++ pre ++ [v] ∧
      (∀ x ∈ pre, x.getLsbD 0 = true) ∧ v.getLsbD 0 = false ∧ P t := by
  induction hleft : turnsLeft s using Nat.strong_induction_on generalizing s with
  | _ left ih =>
    have hbit : s.statusWord.getLsbD 0 = s.phase.busy := statusWord_bit0 s
    cases hn : nextUop s with
    | none =>
      have hbusy : s.phase.busy = false := by rw [← nextUop_isSome, hn]; rfl
      have hpoll := step_poll s rest
      rw [hbit, hbusy, if_neg nofun] at hpoll
      exact ⟨1, _, [], s.statusWord, steps_succ_next hpoll 0, rfl, hbusy, congrArg (· ++ _) (List.append_nil _).symm,
        nofun, hbit.trans hbusy, hhost s rest h⟩
    | some i =>
      obtain ⟨t, ht⟩ := exec_scheduled_next (s := withBusOf (.poll :: rest) (hostLoad .status s)) hn
      have hbus : (advance i t).bus = .poll :: rest := (advance_bus i t).trans (exec_bus ht)
      have hloads : (advance i t).loads = s.loads ++ [s.statusWord] := (advance_loads i t).trans (exec_loads ht)
      have hless : turnsLeft (advance i t) < turnsLeft s :=
        turnsLeft_advance (s := withBusOf (.poll :: rest) (hostLoad .status s)) hn ht
      obtain ⟨k, v, pre, x, hk, hv, hidle, hl, hpre, hx, hPv⟩ :=
        ih _ (hleft ▸ hless) (hop _ t i (hhost s (.poll :: rest) h) hn ht) rfl
      rw [← eq_withBusOf hbus] at hk
      refine ⟨2 + k, v, s.statusWord :: pre, x, (steps_add (steps_poll_busy rest hn ht) k).trans hk, hv, hidle, ?_,
        List.forall_mem_cons.2 ⟨hbit.trans (busy_of_nextUop hn), hpre⟩, hx, hPv⟩
      rw [hl, hloads]
      simp

/-! ## crc.calculate -/

/-- A CALC of `crc.calculate` accepted in state `b` on path `h`, nobody disturbing it, until it is over: what it leaves
then, and that only a missing path, a buffer that wraps or a read that is not admitted keep it from completing. -/
structure Calculating (b : State) (h : Bool) (s : State) : Prop where
  inv     : BlockInv s
  mem     : s.mem = b.mem
  cfg     : s.cfg = b.cfg
  addr    : s.addr = b.addr
  len     : s.len = b.len
  noBuild : s.phase.busy = true → s.phase.inCalc = true
  running : s.phase.inCalc = true → s.raced = false ∧ s.initLatch = b.init
  result  : s.phase = .idle → s.err = .ok → s.result = crc32c b.init (bufferBytes b)
  good    : (h = true → hwPresent b.cfg = true) → b.addr + b.len ≤ addrSpace b.cfg → bufferAdmitted b → s.err = .ok

theorem Calculating.keeps_host {b : State} {h : Bool} (s : State) (e : List BusEvent) (hs : Calculating b h s) :
    Calculating b h (withBusOf e (hostLoad .status s)) :=
  { hs with inv := { hs.inv with } }

theorem calculating_acceptCalc {b : State} (h : Bool) (hb : BlockInv b) (hp : b.phase = .idle) :
    Calculating b h (acceptCalc h .bool .bytes .u32 b) := by
  have hinv : BlockInv (acceptCalc h .bool .bytes .u32 b) := (hb.ready_of_ne (by simp [hp])).blockInv_acceptCalc ..
  rcases acceptCalc_cases h .bool .bytes .u32 b with ⟨hbad, -⟩ | ⟨-, hwrap, e⟩ | ⟨-, -, hh, hpath, e⟩ |
    ⟨-, -, -, hlen, e⟩ | ⟨-, -, -, -, e⟩
  · cases hbad
  · rw [e] at hinv ⊢
    exact ⟨hinv, rfl, rfl, rfl, rfl, nofun, nofun, nofun, fun _ hfit _ => by
      rw [bufferWraps_eq_false.2 hfit] at hwrap; cases hwrap⟩
  · rw [e] at hinv ⊢
    exact ⟨hinv, rfl, rfl, rfl, rfl, nofun, nofun, nofun, fun hgood _ _ => by
      rw [hgood hh] at hpath; cases hpath⟩
  · rw [e] at hinv ⊢
    refine ⟨hinv, rfl, rfl, rfl, rfl, nofun, nofun, fun _ _ => ?_, fun _ _ _ => rfl⟩
    rw [bufferBytes, hlen]; rfl
  · rw [e] at hinv ⊢
    refine ⟨hinv, rfl, rfl, rfl, rfl, ?_, fun _ => ⟨rfl, rfl⟩, ?_, fun _ _ _ => rfl⟩ <;> cases h <;> simp [Phase.inCalc]

theorem Calculating.keeps_microOp {b : State} {h : Bool} (s t : State) (i : Instr) (hs : Calculating b h s)
    (hn : nextUop s = some i) (he : exec i s = .next t) : Calculating b h (advance i t) := by
  have hinv := hs.inv.microOp hn he
  have hc := hs.noBuild (busy_of_nextUop hn)
  obtain ⟨hraced, hlatch⟩ := hs.running hc
  rcases nextUop_phase_cases hn with ⟨hp, -⟩ | ⟨-, -, rfl⟩ | ⟨-, -, rfl⟩ | ⟨-, -, w, hi, hw⟩
  · rcases hp with hp | hp <;> rw [hp] at hc <;> cases hc
  · cases he
    exact { hs with inv := hinv }
  · have hcrc : not32 s.acc = crc32c b.init (bufferBytes b) := by
      rw [hs.inv.acc_at_uFinal hraced hn, hlatch, crc32c_eq_not32_fold, bufferBytes, hs.mem, hs.addr, hs.len]; rfl
    rw [exec_uFinal_of_not_raced hraced] at he
    cases he
    exact ⟨hinv, hs.mem, hs.cfg, hs.addr, hs.len, nofun, nofun, fun _ _ => hcrc, fun _ _ _ => rfl⟩
  · obtain ⟨x, hx⟩ := exec_buffer_form hi s
    cases hx.symm.trans he
    rw [advance_buffer hi] at hinv ⊢
    rcases bufferMicroOp_cases w x s with ⟨-, e⟩ | ⟨hrefused, e⟩ <;> rw [e] at hinv ⊢
    · exact { hs with inv := hinv }
    · refine ⟨hinv, hs.mem, hs.cfg, hs.addr, hs.len, nofun, nofun, nofun, fun _ _ hadm => ?_⟩
      obtain ⟨hge, hsum, -⟩ := hs.inv.calcRange hc
      rw [hs.cfg, hadm s.ptr w (hs.addr ▸ hge) (by rw [← hs.addr, ← hs.len]; omega)] at hrefused
      cases hrefused

/-- The word `crc.calculate` issues (R97, R104). -/
def calcWord (h : Bool) : Word := if h then 0x00000413#32 else 0x00000403#32

theorem decodeCommand_calcWord (h : Bool) : decodeCommand (calcWord h) = .ok (calcOn h .bool .bytes .u32) := by
  cases h <;> rfl

theorem exec_calcOn (h : Bool) (f : FlagKind) (d : DataKind) (k : InitKind) (s : State) :
    exec (calcOn h f d k) s = .next (acceptCalc h f d k s) := by
  cases h <;> rfl

/-- The code in a `STATUS` is 0 exactly when the outcome is OK (60_exceptions.md R220). -/
theorem statusWord_err_eq_zero_iff {s : State} : s.statusWord.extractLsb' 4 4 = 0#4 ↔ s.err = .ok := by
  rw [statusWord_err]
  cases s.err <;> decide

/-- What the stores of `crc.calculate` in front of its command leave. -/
def calcReady (a n : BitVec 64) (c : Word) (s : State) : State := writeReg .init c (setbuf a n s)

theorem calcReady_mem (a n : BitVec 64) (c : Word) (s : State) : (calcReady a n c s).mem = s.mem := setbuf_mem a n s

theorem calcReady_cfg (a n : BitVec 64) (c : Word) (s : State) : (calcReady a n c s).cfg = s.cfg := setbuf_cfg a n s

theorem calcReady_buffer (a n : BitVec 64) (c : Word) (s : State) :
    (calcReady a n c s).addr = a.toNat % addrSpace s.cfg ∧ (calcReady a n c s).len = n.toNat % addrSpace s.cfg :=
  setbuf_buffer a n s

/-- The stores of `crc.calculate` take five steps and the acceptance of its CALC the sixth. -/
theorem steps_acceptCalc {s : State} (hp : s.phase = .idle) (h : Bool) (a n : BitVec 64) (c : Word)
    (b : List BusEvent) (k : Nat) :
    steps (k + 6) (withBusOf (crcSetbuf a n ++ .store .init c :: .store .cmd (calcWord h) :: b) s) =
      steps k (withBusOf b (acceptCalc h .bool .bytes .u32 (calcReady a n c s))) := by
  have hidle : (setbuf a n s).phase = .idle := (setbuf_phase a n s).trans hp
  have hissue : issues (calcWord h) (withBusOf (.store .cmd (calcWord h) :: b) (calcReady a n c s)) := ⟨hidle, _, rfl⟩
  have haccept : exec (calcOn h .bool .bytes .u32) (withBusOf b (calcReady a n c s)) =
      .next (withBusOf b (acceptCalc h .bool .bytes .u32 (calcReady a n c s))) := by
    rw [exec_calcOn, acceptCalc_withBusOf]
  calc steps (k + 6) (withBusOf (crcSetbuf a n ++ .store .init c :: .store .cmd (calcWord h) :: b) s)
    _ = steps (k + 2) (withBusOf (.store .init c :: .store .cmd (calcWord h) :: b) (setbuf a n s)) :=
      steps_crcSetbuf hp a n _ (k + 2)
    _ = steps (k + 1) (withBusOf (.store .cmd (calcWord h) :: b) (calcReady a n c s)) :=
      steps_store (r := .init) hidle nofun ..
    _ = steps k (withBusOf b (acceptCalc h .bool .bytes .u32 (calcReady a n c s))) :=
      steps_succ_next ((step_issue_ok hissue (decodeCommand_calcWord h)).trans haccept) k

/-- A block that is not busy and shows OK is idle (60_exceptions.md R221). -/
theorem BlockInv.idle_of_ok {s : State} (h : BlockInv s) (hbusy : s.phase.busy = false) (hok : s.err = .ok) :
    s.phase = .idle := by
  have hfault : s.phase ≠ .faulted := fun hp => by
    have herr := h.errFault.2 hp
    rw [hok] at herr
    cases herr
  cases hp : s.phase with
  | idle => rfl
  | faulted => exact absurd hp hfault
  | _ => rw [hp] at hbusy; cases hbusy

/-- `crc.calculate` ends: the block is not busy, and the host loads its `STATUS` and its `RESULT`. -/
theorem crcCalculate_ends {s : State} (hinv : BlockInv s) (hp : s.phase = .idle) (h : Bool) (a n : BitVec 64) (c : Word)
    (rest : List BusEvent) :
    ∃ (k : Nat) (t : State) (pre : List Word),
      steps k (withBusOf (crcCalculate h a n c ++ rest) s) =
        .next (withBusOf rest (hostLoad .result (hostLoad .status t))) ∧
      t.phase.busy = false ∧ t.loads = s.loads ++ pre ∧ Calculating (calcReady a n c s) h t := by
  have hidle : (setbuf a n s).phase = .idle := (setbuf_phase a n s).trans hp
  have hready : BlockInv (calcReady a n c s) := (hinv.keeps_setbuf hp a n).keeps_writeReg hidle .init c
  have hstart := calculating_acceptCalc h hready hidle
  have hloads : (acceptCalc h .bool .bytes .u32 (calcReady a n c s)).loads = s.loads :=
    (exec_loads (exec_calcOn h .bool .bytes .u32 _)).trans (setbuf_loads a n s)
  obtain ⟨k, t, pre, v, hk, hbus, hbusy, hl, -, -, ht⟩ :=
    crcWait_ends Calculating.keeps_host Calculating.keeps_microOp (.load .status :: .load .result :: rest) hstart
  refine ⟨k + 2 + 6, t, pre ++ [v], ?_, hbusy, by rw [hl, hloads, List.append_assoc], ht⟩
  calc steps (k + 2 + 6) (withBusOf (crcCalculate h a n c ++ rest) s)
    _ = steps (k + 2) (withBusOf (.poll :: .load .status :: .load .result :: rest)
          (acceptCalc h .bool .bytes .u32 (calcReady a n c s))) := steps_acceptCalc hp h a n c _ (k + 2)
    _ = steps 2 (withBusOf (.load .status :: .load .result :: rest) t) :=
      (steps_add hk 2).trans (steps_withBusOf hbus 2)
    _ = steps 1 (withBusOf (.load .result :: rest) (hostLoad .status t)) := steps_load t .status _ 1
    _ = .next (withBusOf rest (hostLoad .result (hostLoad .status t))) := steps_load _ .result rest 0

/-- Settles O60: the stores of `crc.setbuf` are `setbuf`, the loop of `crc.wait` ends since every micro-op lowers
`turnsLeft`, and a CALC keeps `Calculating` until then. -/
theorem hostProgramsOfR104 : Obligations.HostProgramsOfR104 := by
  refine ⟨fun s a n rest hp hb h64 => ?_, fun s a n rest hp hb h32 => ?_, fun s rest hp hb => ?_, fun s rest hb => ?_,
    fun s rest hb => ?_, fun s h a n c rest hinv hp hb => ?_⟩
  · obtain ⟨haddr, hlen⟩ := setbuf_buffer a n s
    rw [addrSpace, h64] at haddr hlen
    refine ⟨withBusOf rest (setbuf a n s), ?_, ?_, ?_, ?_⟩
    · exact (steps_withBusOf hb 4).trans (steps_crcSetbuf hp a n rest 0)
    · rw [setbuf_w64 h64]; rfl
    · exact haddr.trans (Nat.mod_eq_of_lt a.isLt)
    · exact hlen.trans (Nat.mod_eq_of_lt n.isLt)
  · obtain ⟨haddr, hlen⟩ := setbuf_buffer a n s
    rw [addrSpace, h32] at haddr hlen
    refine ⟨withBusOf rest (setbuf a n s), ?_, ?_, haddr, hlen⟩
    · exact (steps_withBusOf hb 4).trans (steps_crcSetbuf hp a n rest 0)
    · rw [setbuf_w32 h32]; rfl
  · exact (steps_withBusOf hb 2).trans (steps_crcAvailable hp rest)
  · exact (congrArg step (eq_withBusOf hb)).trans (step_poll s rest)
  · obtain ⟨k, t, pre, v, hk, ht, hbusy, hl, hpre, hv, -⟩ :=
      crcWait_ends (P := fun _ => True) (fun _ _ _ => trivial) (fun _ _ _ _ _ _ => trivial) rest (s := s) trivial
    exact ⟨k, t, pre, v, (steps_withBusOf hb k).trans hk, ht, hbusy, hl, hpre, hv⟩
  · obtain ⟨k, t, pre, hk, hbusy, hl, ht⟩ := crcCalculate_ends hinv hp h a n c rest
    obtain ⟨haddr, hlen⟩ := calcReady_buffer a n c s
    refine ⟨k, _, pre, t.statusWord, t.result, (steps_withBusOf hb k).trans hk, rfl,
      ht.mem.trans (calcReady_mem a n c s), ?_, (statusWord_bit0 t).trans hbusy, fun hzero => ?_, fun hpath hfit hadm => ?_⟩
    · show t.loads ++ [_] ++ [_] = _
      rw [hl, List.append_assoc]; rfl
    · have hok := statusWord_err_eq_zero_iff.1 hzero
      rw [ht.result (ht.inv.idle_of_ok hbusy hok) hok, bufferBytes, haddr, hlen, calcReady_mem]; rfl
    · refine statusWord_err_eq_zero_iff.2 (ht.good ?_ ?_ fun x w => ?_)
      · rw [calcReady_cfg]; exact hpath
      · rw [haddr, hlen, calcReady_cfg]; exact hfit
      · rw [haddr, hlen, calcReady_cfg]; exact hadm x w

end Sys2Proof.Machine
end

section
/-! The feature detector (41_feature_detector.md): what FEATQ reports, and that no run changes it, since no step changes
the platform's parameters. -/

namespace Sys2Proof.Machine

/-! ## The platform along a run (R122) -/

theorem step_cfg {s t : State} (h : step s = .next t) : t.cfg = s.cfg := by
  rcases step_next_cases h with hq | ⟨i, u, v, hrun, he, rfl⟩
  · rcases turn_quiet_keeps State.cfg (fun _ => rfl) (by simp) (by simp) (by simp) writeReg_cfg (by simp) hq
      with hkeep | ⟨rest, hreset⟩
    · exact hkeep
    · cases (turn_reset hreset).symm.trans hq
      rfl
  · obtain ⟨b, rfl⟩ := turn_run_withBus hrun
    have hv := exec_cfg he
    exact (advance_cfg i v).trans hv

theorem steps_cfg {k : Nat} {s t : State} (h : steps k s = .next t) : t.cfg = s.cfg :=
  steps_induction (P := fun s t => t.cfg = s.cfg) (fun _ => rfl) (fun _ _ _ hstep ih => ih.trans (step_cfg hstep)) h

/-- Settles O12: FEATQ's result is a function of the platform, which `steps_cfg` keeps. -/
theorem featqIsStable : Obligations.FeatqIsStable := by
  intro k s t h
  have hcfg : t.cfg = s.cfg := steps_cfg h
  refine ⟨hcfg, _, _, rfl, rfl, ?_⟩
  rw [complete_result, complete_result, hcfg]

/-! ## FEATQ's word and its effect (R120, R123) -/

/-- `zext_32(HW_PRESENT)`, with R121's condition written out. -/
theorem zext_hwPresent (p : Platform) : (BitVec.ofBool (hwPresent p)).setWidth 32 =
    if p.cpuidAvailable = true ∧ p.featureWord.getLsbD 20 = true then 1#32 else 0#32 := by
  unfold hwPresent
  cases p.cpuidAvailable <;> cases p.featureWord.getLsbD 20 <;> rfl

theorem exec_featq_of_idle {s : State} (hp : s.phase = .idle) : exec .featq s = .next { s with
    result := if s.cfg.cpuidAvailable = true ∧ s.cfg.featureWord.getLsbD 20 = true then 1#32 else 0#32
    err := .ok } := by
  rw [← zext_hwPresent]
  exact congrArg Host.Outcome.next (complete_of_idle (s := { accept s with
    result := (BitVec.ofBool (hwPresent s.cfg)).setWidth 32 }) hp .ok)

/-- `OP` = 1 leaves a word FEATQ or illegal, and FEATQ has one word only. -/
theorem decodeCommand_error_of_op_one {w : BitVec 32} (hop : w.extractLsb' 0 4 = 1#4) (hw : w ≠ 1#32) :
    ∃ e, decodeCommand w = .error e := by
  cases hd : decodeCommand w with
  | error e => exact ⟨e, rfl⟩
  | ok i =>
    rcases decodeCommand_ok_cases hd with ⟨-, hplain⟩ | ⟨-, hplain⟩ | ⟨_, _, _, _, -, hcalc⟩
    · exact absurd (hplain.eq isPlainWord_featq) hw
    · exact absurd (hop.symm.trans hplain.op) (by decide)
    · exact absurd (hop.symm.trans hcalc.op) (by decide)

/-- `STATUS` of an idle block with a built table and no error. -/
theorem statusWord_of_idle_ok {s : State} (hp : s.phase = .idle) (ht : s.tblReady = true) (he : s.err = .ok) :
    s.statusWord = 2#32 := by
  unfold State.statusWord
  rw [hp, ht, he]
  rfl

/-- Settles O11: the word and its step are the decoder's, the effect is `exec_featq_of_idle`, and the example takes its
condition to be true. -/
theorem featqReportsHwPresent : Obligations.FeatqReportsHwPresent := by
  refine ⟨decodeCommand_featq isPlainWord_featq, fun s => exec_featq_of_idle, fun s w hissue hop hw => ?_,
    fun s t hp htbl hcpuid hword h => ?_⟩
  · obtain ⟨e, he⟩ := decodeCommand_error_of_op_one hop hw
    exact step_issue_error hissue he
  · cases (exec_featq_of_idle hp).symm.trans h
    have hpresent : s.cfg.cpuidAvailable = true ∧ s.cfg.featureWord.getLsbD 20 = true :=
      ⟨hcpuid, by rw [hword]; decide⟩
    exact ⟨if_pos hpresent, statusWord_of_idle_ok hp htbl rfl⟩

end Sys2Proof.Machine
end

section
/-! The table generator (42_table_generator.md): what `Div8` and a completed build's entries are, what the two table
micro-ops write, and that a build, the reset's or TBLGEN's, goes through its 2048 micro-ops in the order of R136, each
giving one more entry its value. -/

namespace Sys2Proof.Machine

/-! ## `Div8` and the value of an entry (R131, R135) -/

theorem setWidth_low_byte (c : Word) : (c.extractLsb' 0 8).setWidth 32 = c &&& 0xFF#32 := by
  apply BitVec.eq_of_toNat_eq
  have hmask : (c &&& 0xFF#32).toNat = c.toNat % 2 ^ 8 := Nat.and_two_pow_sub_one_eq_mod c.toNat 8
  rw [hmask, BitVec.toNat_setWidth, BitVec.extractLsb'_toNat, Nat.shiftRight_zero]
  omega

/-- Settles O15: linearity is `div8_xor`, and the low byte is what the mask leaves. -/
theorem div8IsLinear : Obligations.Div8IsLinear := by
  refine ⟨fun c => rfl, div8_xor, fun c => ?_⟩
  rw [← setWidth_low_byte]
  exact div8_low_byte c

theorem fold_zero_replicate_zero (n : Nat) : fold 0#32 (List.replicate n 0#8) = 0#32 := by
  induction n with
  | zero => rfl
  | succ n ih =>
    have hbyte : foldByte 0#32 0#8 = 0#32 := by decide
    rw [List.replicate_succ, fold, hbyte, ih]

/-- Settles O18: each of the j zero bytes only divides once more what the byte i left. -/
theorem tableValueIsFoldOfByteAndZeros : Obligations.TableValueIsFoldOfByteAndZeros := by
  refine fun j i => ⟨rfl, ?_⟩
  rw [fold_zero_cons, List.length_replicate, fold_zero_replicate_zero, BitVec.xor_zero]
  rfl

/-! ## TBLGEN and the table micro-ops (R132, R133, R136) -/

theorem exec_tblgen (s : State) : exec .tblgen s = .next (startBuild (accept s)) := rfl

/-- Settles O13: the word has TBLGEN's fields, and its meaning is the start of a build. -/
theorem tblgenStartsBuild : Obligations.TblgenStartsBuild :=
  ⟨decodeCommand_tblgen isPlainWord_tblgen, exec_tblgen⟩

/-- U_TG_BASE's label in the form R132 writes it. -/
theorem encode_uTgBase (i : BitVec 8) : encode (.uTgBase i) = .label (0x0001#16 ||| i.setWidth 16 <<< 8) := rfl

/-- U_TG_SLICE's label in the form R133 writes it. -/
theorem encode_uTgSlice (j : BitVec 3) (i : BitVec 8) :
    encode (.uTgSlice j i) = .label (0x0002#16 ||| j.setWidth 16 <<< 4 ||| i.setWidth 16 <<< 8) := rfl

/-- Settles O16: the label is the encoder's, and the entry and its frame are `TABLE`'s read after write. -/
theorem uTgBaseWritesEntry : Obligations.UTgBaseWritesEntry := by
  refine ⟨fun i => ?_, fun s i => ⟨_, rfl, ?_, fun j' i' h => ?_⟩, ?_⟩
  · have hdecode := decodeOfEncode (.uTgBase i) rfl
    rwa [encode_uTgBase] at hdecode
  · exact Table.get_set_same ..
  · exact Table.get_set_other _ _ h
  · decide

/-- U_TG_SLICE on the slices R133 gives it. -/
theorem exec_uTgSlice {j : BitVec 3} (hj : j ≠ 0#3) (i : BitVec 8) (s : State) : exec (.uTgSlice j i) s =
    .next { s with table := s.table.set j i (sliceEntry s.table (s.table.get (j - 1#3) i)) } := if_neg hj

/-- Settles O17: the label is the encoder's, the entry and its frame are `TABLE`'s read after write, and the example
reads the two entries it names. -/
theorem uSliceWritesEntry : Obligations.USliceWritesEntry := by
  refine ⟨fun j i hj => ?_, fun s j i hj => ⟨_, exec_uTgSlice hj i s, ?_, fun j' i' h => ?_⟩,
    fun s t h1 h3 h => ?_, fun s i => rfl⟩
  · have hdecode := decodeOfEncode (.uTgSlice j i) (bne_iff_ne.2 hj)
    rwa [encode_uTgSlice] at hdecode
  · exact Table.get_set_same ..
  · exact Table.get_set_other _ _ h
  · cases (exec_uTgSlice (by decide) 1#8 s).symm.trans h
    have hprev : s.table.get (1#3 - 1#3) 1#8 = 0xF26B8303#32 := h1
    have hlow : (0xF26B8303#32).extractLsb' 0 8 = 3#8 := by decide
    rw [Table.get_set_same, sliceEntry, hprev, hlow, h3]
    decide

/-! ## How the sequencer moves on (R134, R136) -/

theorem advanceBuild_index {x : BitVec 8} (hx : x ≠ 255#8) (j : BitVec 3) (s : State) :
    advanceBuild j x s = { s with tgI := x + 1#8 } := if_neg hx

theorem advanceBuild_slice {j : BitVec 3} (hj : j ≠ 7#3) (s : State) :
    advanceBuild j 255#8 s = { s with tgJ := j + 1#3, tgI := 0#8 } := if_neg hj

theorem advanceBuild_last (s : State) : advanceBuild 7#3 255#8 s = endBuild s := rfl

/-- The sequencer's move never clears `TBL_READY`. -/
theorem advance_tblReady {s : State} (h : s.tblReady = true) (i : Instr) : (advance i s).tblReady = true := by
  have build (j : BitVec 3) (x : BitVec 8) : (advanceBuild j x s).tblReady = true := by
    rcases advanceBuild_cases j x s with ⟨-, e⟩ | ⟨-, -, e⟩ | ⟨-, -, e⟩ <;> rw [e]
    · exact h
    · exact h
    · rfl
  cases i with
  | uTgBase x => exact build _ _
  | uTgSlice j x => exact build _ _
  | _ => exact h

/-- Only a reset clears `TBL_READY` (10_state.md R24). -/
theorem step_tblReady {s t : State} (h : step s = .next t) (hs : s.tblReady = true) :
    t.tblReady = true ∨ ∃ rest, s.bus = .reset :: rest := by
  rcases step_next_cases h with hq | ⟨i, u, v, hrun, he, rfl⟩
  · rcases turn_quiet_keeps State.tblReady (fun _ => rfl) (by simp) (by simp) (by simp) writeReg_tblReady (by simp) hq
      with hkeep | hreset
    · exact .inl (hkeep.trans hs)
    · exact .inr hreset
  · obtain ⟨b, rfl⟩ := turn_run_withBus hrun
    have hv := exec_tblReady he
    exact .inl (advance_tblReady (hv.trans hs) i)

/-- Settles O9: the counters' three moves are `advanceBuild`'s, and `TBL_READY` is `step_tblReady`. -/
theorem buildOrderAndEnd : Obligations.BuildOrderAndEnd :=
  ⟨fun s _ hx => advanceBuild_index hx 0#3 s, fun s => advanceBuild_slice (j := 0#3) (by decide) s,
    fun s j _ hx => advanceBuild_index hx j s, fun s _ hj => advanceBuild_slice hj s, advanceBuild_last,
    fun _ => rfl, fun _ _ => step_tblReady⟩

/-! ## A build of `k` entries -/

/-- `TG_J` before the micro-op at place `k` of a build. -/
def sliceAt (k : Nat) : BitVec 3 := BitVec.ofNat 3 (k / 256)

/-- `TG_I` before the micro-op at place `k` of a build. -/
def indexAt (k : Nat) : BitVec 8 := BitVec.ofNat 8 k

/-- The place of the counters in the order of R136 is the one they are taken at. -/
theorem place_sliceAt_indexAt {k : Nat} (hk : k < 2048) : 256 * (sliceAt k).toNat + (indexAt k).toNat = k := by
  simp only [sliceAt, indexAt, BitVec.toNat_ofNat]
  omega

/-- A table in which the first `k` entries of a build have been given their values. -/
def Table.fill (t : Table) : Nat → Table
  | 0 => t
  | k + 1 => (Table.fill t k).set (sliceAt k) (indexAt k) (tableValue (sliceAt k) (indexAt k))

theorem Table.entryBuilt_fill (t : Table) {k : Nat} (hk : k ≤ 2048) (j : BitVec 3) (i : BitVec 8)
    (h : 256 * j.toNat + i.toNat < k) : entryBuilt (t.fill k) j i := by
  induction k generalizing j i with
  | zero => exact absurd h (Nat.not_lt_zero _)
  | succ k ih =>
    have hplace := place_sliceAt_indexAt hk
    exact entryBuilt_set_of_le (fun j i hlt => ih (by omega) j i (hlt.trans_eq hplace)) (by omega)

/-- A table that is built already is not changed. -/
theorem Table.fill_of_built {t : Table} (ht : ∀ j i, entryBuilt t j i) (k : Nat) : t.fill k = t := by
  induction k with
  | zero => rfl
  | succ k ih => rw [Table.fill, ih, ← ht, Table.set_get_self]

/-- A state that has taken the first `k` micro-ops of a build that starts on `s`. -/
def atPlace (k : Nat) (s : State) : State :=
  { s with tgJ := sliceAt k, tgI := indexAt k, table := s.table.fill k }

theorem sliceAt_eq_zero_iff {k : Nat} (hk : k < 2048) : sliceAt k = 0#3 ↔ k < 256 := by
  rw [← BitVec.toNat_inj, sliceAt, BitVec.toNat_ofNat, BitVec.toNat_ofNat]
  omega

theorem buildNext_atPlace {k : Nat} (hk : k < 2048) (s : State) : buildNext (atPlace k s) = buildUop k :=
  if_congr (sliceAt_eq_zero_iff hk) rfl rfl

theorem indexAt_succ (k : Nat) : indexAt (k + 1) = indexAt k + 1#8 := BitVec.ofNat_add ..

theorem sliceAt_succ_of_index {k : Nat} (h : indexAt k ≠ 255#8) : sliceAt (k + 1) = sliceAt k := by
  have hk : k % 256 ≠ 255 := fun he => h (BitVec.eq_of_toNat_eq he)
  rw [sliceAt, sliceAt, show (k + 1) / 256 = k / 256 by omega]

theorem sliceAt_succ_of_last {k : Nat} (h : indexAt k = 255#8) : sliceAt (k + 1) = sliceAt k + 1#3 := by
  have hk : k % 256 = 255 := congrArg BitVec.toNat h
  rw [sliceAt, sliceAt, show (k + 1) / 256 = k / 256 + 1 by omega, BitVec.ofNat_add]

/-- Until the last entry, the counters move to the next place (R136). -/
theorem advanceBuild_place {k : Nat} (hk : k + 1 < 2048) {s : State} (hj : s.tgJ = sliceAt k) :
    advanceBuild (sliceAt k) (indexAt k) s = { s with tgJ := sliceAt (k + 1), tgI := indexAt (k + 1) } := by
  by_cases hx : indexAt k = 255#8
  · have hlast : sliceAt k ≠ 7#3 := by
      intro he
      have hplace := place_sliceAt_indexAt (k := k) (by omega)
      rw [he, hx] at hplace
      simp only [BitVec.toNat_ofNat] at hplace
      omega
    rw [sliceAt_succ_of_last hx, indexAt_succ, hx, advanceBuild_slice hlast]
    rfl
  · rw [advanceBuild_index hx, sliceAt_succ_of_index hx, indexAt_succ, ← hj]

section Build
variable {s : State} (hp : s.phase = .resetTgen ∨ s.phase = .tgen) (hbus : s.bus = [])
include hp hbus

/-- The micro-op at place `k` gives its entry its value, and the sequencer moves on. -/
theorem step_atPlace {k : Nat} (hk : k < 2048) : step (atPlace k s) =
    .next (advanceBuild (sliceAt k) (indexAt k) { atPlace k s with table := s.table.fill (k + 1) }) := by
  have hnext : nextUop (atPlace k s) = some (buildNext (atPlace k s)) := nextUop_build hp
  have hbefore (j : BitVec 3) (i : BitVec 8) (h : earlier j i (sliceAt k) (indexAt k)) :
      entryBuilt (s.table.fill k) j i :=
    Table.entryBuilt_fill _ hk.le j i (h.trans_eq (place_sliceAt_indexAt hk))
  rw [step_of_turn_run ((turn_nil (s := atPlace k s) hbus).trans (engineTurn_of_nextUop hnext)),
    exec_buildNext (s := atPlace k s) hbefore, mapNext, advance_buildNext]
  rfl

theorem steps_atPlace (hj : s.tgJ = 0#3) (hi : s.tgI = 0#8) {k : Nat} (hk : k < 2048) :
    steps k s = .next (atPlace k s) := by
  induction k with
  | zero =>
    have hstart : atPlace 0 s = { s with tgJ := 0#3, tgI := 0#8 } := rfl
    rw [hstart, ← hj, ← hi, steps_zero]
  | succ k ih =>
    rw [steps_add (ih (by omega)) 1, steps_succ_next (step_atPlace hp hbus (by omega)), steps_zero,
      advanceBuild_place hk rfl]
    rfl

/-- A build takes 2048 micro-ops, fills the table whatever it held, and ends as R134 says. -/
theorem steps_build (hj : s.tgJ = 0#3) (hi : s.tgI = 0#8) : steps 2048 s = .next { s with
    table := s.table.fill 2048, tblReady := true, err := .ok, phase := .idle, tgJ := 7#3, tgI := 255#8 } := by
  rw [steps_add (steps_atPlace hp hbus hj hi (k := 2047) (by decide)) 1,
    steps_succ_next (step_atPlace hp hbus (by decide)), steps_zero]
  have hslice : sliceAt 2047 = 7#3 := by decide
  have hindex : indexAt 2047 = 255#8 := by decide
  simp only [hslice, hindex, advanceBuild_last, endBuild, complete, atPlace, Nat.reduceAdd]

end Build

/-- Settles O14: the build TBLGEN starts is `steps_atPlace`, ended by `steps_build`, on a table it does not change. -/
theorem tblgenRebuildsSameTable : Obligations.TblgenRebuildsSameTable := by
  intro s hinv hp hbus
  have hready : s.tblReady = true := hinv.ready.2 (by rw [hp]; decide)
  have hfill (k : Nat) : s.table.fill k = s.table := Table.fill_of_built (hinv.tableDone hready) k
  have hissue : issues 0x00000002#32 s := ⟨hp, [], hbus⟩
  have hstep : step s = .next (startBuild (accept (afterEvent s))) :=
    step_issue_ok hissue (decodeCommand_tblgen isPlainWord_tblgen)
  have hempty : (startBuild (accept (afterEvent s))).bus = [] := congrArg List.tail hbus
  refine ⟨fun k hk => ⟨atPlace k (startBuild (accept (afterEvent s))), ?_, rfl, rfl, rfl, hfill k, rfl, ?_⟩, ?_⟩
  · rw [steps_succ_next hstep, steps_atPlace (.inr rfl) hempty rfl rfl hk]
  · rw [← buildNext_atPlace hk]
    exact nextUop_build (.inr rfl)
  · rw [Nat.add_comm, steps_succ_next hstep, steps_build (.inr rfl) hempty rfl rfl]
    simp only [startBuild, accept, afterEvent, hbus, List.tail_cons, hfill, hp, hready]

end Sys2Proof.Machine
end

section
/-! The micro-ops of the software path (43_software_engine.md): U_INIT and U_FINAL, what an admitted buffer micro-op
writes with and without enough bytes left, and the two table steps, as lookups and as `Div8` on a built table. -/

namespace Sys2Proof.Machine

/-! ## U_INIT and U_FINAL (R152, R155) -/

/-- Settles O25: the label is the encoder's, the place is the schedule's, and the values are complements. -/
theorem uInitLoadsInverted : Obligations.UInitLoadsInverted := by
  refine ⟨decodeOfEncode .uInit rfl, fun s => nextUop_first, fun s => rfl, fun s t h => ?_⟩
  cases h
  exact ⟨fun hl => (congrArg not32 hl).trans (by decide), fun hl => (congrArg not32 hl).trans (by decide),
    fun hl => (congrArg not32 hl).trans (by decide)⟩

/-- Settles O33: the label is the encoder's, and without a race U_FINAL completes with the complement of `ACC`. -/
theorem uFinalDeliversResult : Obligations.UFinalDeliversResult := by
  refine ⟨decodeOfEncode .uFinal rfl, fun s hr => exec_uFinal_of_not_raced hr, fun s t hr h => ?_⟩
  cases (exec_uFinal_of_not_raced hr).symm.trans h
  exact ⟨fun ha => (congrArg not32 ha).trans (by decide), fun ha => (congrArg not32 ha).trans (by decide)⟩

/-! ## What an admitted buffer micro-op writes (R153, R154) -/

theorem consume_of_le {w : ReadWidth} {s : State} (h : w.bytes ≤ s.rem) (x : Word) :
    consume w x s = { s with acc := x, ptr := s.ptr + w.bytes, rem := s.rem - w.bytes } := by
  rw [consume, remAfter_of_le h]

/-- No buffer micro-op looks at `REM` to find its accumulator. -/
theorem exec_buffer_withRem {i : Instr} {w : ReadWidth} (h : readWidth i = some w) (s : State) :
    ∃ x, exec i s = .next (bufferMicroOp w x s) ∧
      ∀ r, exec i { s with rem := r } = .next (bufferMicroOp w x { s with rem := r }) := by
  cases i <;> cases h <;> exact ⟨_, rfl, fun _ => rfl⟩

/-- Settles O32: with too few bytes left only the value `REM` takes is another one. -/
theorem remBelowWidthIsFree : Obligations.RemBelowWidthIsFree := by
  intro s i w r hi hlt _ ha
  obtain ⟨x, hx, hr⟩ := exec_buffer_withRem hi s
  refine ⟨consume w x { s with rem := r }, ?_, ?_⟩
  · rw [hr, bufferMicroOp_admitted (s := { s with rem := r }) x ha]
  · rw [hx, bufferMicroOp_admitted x ha, consume, consume, remAfter_of_lt hlt]

theorem exec_uSwByte {s : State} (hr : 1 ≤ s.rem) (ha : memAdmit s.cfg s.ptr .one = true) :
    exec .uSwByte s = .next { s with
      acc := swByte s.table s.acc (s.mem.read s.ptr), ptr := s.ptr + 1, rem := s.rem - 1 } := by
  rw [exec, execUSwByte, memRead_one, bufferMicroOp_admitted _ ha, consume_of_le (w := .one) hr]
  rfl

theorem exec_uSwSlice8 {s : State} (hr : 8 ≤ s.rem) (ha : memAdmit s.cfg s.ptr .eight = true) :
    exec .uSwSlice8 s = .next { s with
      acc := swSlice8 s.table s.acc (memRead s.mem s.ptr 8), ptr := s.ptr + 8, rem := s.rem - 8 } := by
  rw [exec, execUSwSlice8, bufferMicroOp_admitted _ ha, consume_of_le (w := .eight) hr]
  rfl

/-- Settles O26: the label is the encoder's, the effect `exec_uSwByte`, and on a built table the lookup is the fold of
the byte. -/
theorem uSwByteFoldsOneByte : Obligations.USwByteFoldsOneByte := by
  refine ⟨decodeOfEncode .uSwByte rfl, fun s => exec_uSwByte, fun s ha => ?_, fun s t hr ha ht h => ?_⟩
  · exact congrArg _ (bufferMicroOp_unadmitted _ ha)
  · cases (exec_uSwByte hr ha).symm.trans h
    rw [swByte_of_built (ht 0#3)]
    exact ⟨fun hacc hb => (congrArg₂ foldByte hacc hb).trans (by decide),
      fun hacc hb => (congrArg₂ foldByte hacc hb).trans (by decide)⟩

/-- The bytes of a value determine it (20_memory.md R61). -/
theorem eq_memRead {m : Memory} {a n : Nat} {v : BitVec (8 * n)}
    (h : ∀ k, k < n → v.extractLsb' (8 * k) 8 = m.read (a + k)) : v = memRead m a n := by
  apply BitVec.eq_of_getLsbD_eq
  intro x hx
  have hmod : x % 8 < 8 := Nat.mod_lt x (by decide)
  rw [getLsbD_memRead m hx, ← h (x / 8) (by omega), BitVec.getLsbD_extractLsb', Nat.div_add_mod, decide_eq_true hmod,
    Bool.true_and]

/-- Settles O27: the label is the encoder's, the word at `PTR` is the one with memory's bytes, and on a built table the
lookups are the fold of its bytes. -/
theorem uSwSlice8FoldsEightBytes : Obligations.USwSlice8FoldsEightBytes := by
  refine ⟨decodeOfEncode .uSwSlice8 rfl, fun s w x hr ha hw hx => ?_, fun s ha => ?_, fun s t w hr ha hw ht h => ?_⟩
  · rw [exec_uSwSlice8 hr ha, ← eq_memRead (n := 8) hw, swSlice8, ← hx]
    rfl
  · exact congrArg _ (bufferMicroOp_unadmitted _ ha)
  · cases (exec_uSwSlice8 hr ha).symm.trans h
    rw [← eq_memRead (n := 8) hw, swSlice8_of_built ht]
    exact ⟨fun hacc hv => (congrArg₂ (hwFold 8) hacc hv).trans (by decide +kernel),
      fun hacc hv => (congrArg₂ (hwFold 8) hacc hv).trans (by decide +kernel)⟩

/-! ## The table steps on a built table (R156, R157) -/

/-- Settles O39: the slice-0 lookup is `Div8`, by itself and in U_SW_BYTE. -/
theorem byteStepIsTableFree : Obligations.ByteStepIsTableFree := by
  refine ⟨fun t a b ht => swByte_of_built (ht 0#3) a b, fun s ht hr ha => ?_⟩
  rw [exec_uSwByte hr ha, swByte_of_built (ht 0#3)]
  rfl

/-- Settles O40: both sides fold the word's bytes, lowest first. -/
theorem sliceIsEightByteSteps : Obligations.SliceIsEightByteSteps := by
  intro t a w ht
  simp only [swSlice8_of_built ht, swByte_of_built (ht 0#3)]
  rfl

end Sys2Proof.Machine
end

section
/-! The software schedule (43_software_engine.md R151): bytes up to the next multiple of 8, then slices, then the bytes
that are left. -/

namespace Sys2Proof.Machine

theorem swNext_of_end (ptr : Nat) : swNext ptr 0 = .uFinal := rfl

theorem swNext_of_byte {ptr rem : Nat} (hr : 0 < rem) (h : ptr % 8 ≠ 0 ∨ rem < 8) : swNext ptr rem = .uSwByte := by
  rw [swNext, if_neg (by omega), if_pos h]

theorem swNext_of_slice {ptr rem : Nat} (hr : 8 ≤ rem) (h : ptr % 8 = 0) : swNext ptr rem = .uSwSlice8 := by
  rw [swNext, if_neg (by omega), if_neg (by omega)]

theorem swUops_of_end (fuel ptr : Nat) : swUops fuel ptr 0 = [] := by
  cases fuel <;> rfl

theorem swUops_of_byte {ptr rem : Nat} (hr : 0 < rem) (h : ptr % 8 ≠ 0 ∨ rem < 8) (fuel : Nat) :
    swUops (fuel + 1) ptr rem = .uSwByte :: swUops fuel (ptr + 1) (rem - 1) := by
  rw [swUops, if_neg (by omega), if_pos h]

theorem swUops_of_slice {ptr rem : Nat} (hr : 8 ≤ rem) (h : ptr % 8 = 0) (fuel : Nat) :
    swUops (fuel + 1) ptr rem = .uSwSlice8 :: swUops fuel (ptr + 8) (rem - 8) := by
  rw [swUops, if_neg (by omega), if_neg (by omega)]

/-- A stretch of bytes: before each of them `PTR` is not aligned or fewer than 8 bytes are left. -/
theorem swUops_bytes {ptr rem n : Nat} (fuel : Nat) (h : ∀ k < n, (ptr + k) % 8 ≠ 0 ∨ rem + n - k < 8) :
    swUops (fuel + n) ptr (rem + n) = List.replicate n .uSwByte ++ swUops fuel (ptr + n) rem := by
  induction n generalizing ptr with
  | zero => rfl
  | succ n ih =>
    have hfirst := h 0 (by omega)
    rw [← Nat.add_assoc, swUops_of_byte (by omega) (by omega), List.replicate_succ, List.cons_append,
      show rem + (n + 1) - 1 = rem + n by omega, show ptr + (n + 1) = ptr + 1 + n by omega, ih]
    intro k hk
    have hnext := h (k + 1) (by omega)
    omega

/-- From an aligned `PTR` the slices follow one another. -/
theorem swUops_slices {ptr n : Nat} (fuel rem : Nat) (h : 0 < n → ptr % 8 = 0) :
    swUops (fuel + n) ptr (rem + 8 * n) = List.replicate n .uSwSlice8 ++ swUops fuel (ptr + 8 * n) rem := by
  induction n generalizing ptr with
  | zero => rfl
  | succ n ih =>
    rw [← Nat.add_assoc, swUops_of_slice (by omega) (h (by omega)), List.replicate_succ, List.cons_append,
      show rem + 8 * (n + 1) - 8 = rem + 8 * n by omega, show ptr + 8 * (n + 1) = ptr + 8 + 8 * n by omega,
      ih (by omega)]

/-- The three stretches of a CALC.SW, h being the length of the first. -/
theorem swUops_shape (addr len : Nat) :
    swUops len addr len =
      List.replicate (swPrologue addr len) .uSwByte ++
        List.replicate ((len - swPrologue addr len) / 8) .uSwSlice8 ++
        List.replicate ((len - swPrologue addr len) % 8) .uSwByte := by
  have hle : swPrologue addr len ≤ len := Nat.min_le_left ..
  have hbefore : ∀ k < swPrologue addr len, (addr + k) % 8 ≠ 0 := by unfold swPrologue; omega
  have hafter : swPrologue addr len < len → (addr + swPrologue addr len) % 8 = 0 := by unfold swPrologue; omega
  generalize swPrologue addr len = h at *
  obtain ⟨q, hq⟩ : ∃ q, q = (len - h) / 8 := ⟨_, rfl⟩
  obtain ⟨r, hr⟩ : ∃ r, r = (len - h) % 8 := ⟨_, rfl⟩
  rw [← hq, ← hr, List.append_assoc]
  calc swUops len addr len
    _ = swUops (7 * q + r + q + h) addr (r + 8 * q + h) := by congr 1 <;> omega
    _ = List.replicate h .uSwByte ++ swUops (7 * q + r + q) (addr + h) (r + 8 * q) :=
      swUops_bytes _ fun k hk => .inl (hbefore k hk)
    _ = List.replicate h .uSwByte ++ (List.replicate q .uSwSlice8 ++ swUops (7 * q + r) (addr + h + 8 * q) (0 + r)) := by
      rw [swUops_slices _ _ fun hpos => hafter (by omega), Nat.zero_add]
    _ = List.replicate h .uSwByte ++ (List.replicate q .uSwSlice8 ++ List.replicate r .uSwByte) := by
      rw [swUops_bytes _ fun k hk => .inr (by omega), swUops_of_end, List.append_nil]

theorem length_swUops (addr len : Nat) : (swUops len addr len).length + 2 = swMicroOps addr len := by
  have hle : swPrologue addr len ≤ len := Nat.min_le_left ..
  rw [swUops_shape, swMicroOps, List.length_append, List.length_append, List.length_replicate, List.length_replicate,
    List.length_replicate]
  omega

/-- Settles O37: the clauses on `SwNext` are its cases, and the shape of the schedule gives its length. -/
theorem swScheduleShape : Obligations.SwScheduleShape := by
  refine ⟨fun ptr rem => ⟨fun hr => ?_, swNext_of_byte, swNext_of_slice⟩, fun addr len h _ hh => ?_⟩
  · rw [hr, swNext_of_end]
  · have hlength := length_swUops addr len
    obtain rfl : h = swPrologue addr len := hh
    refine ⟨swUops_shape addr len, ?_, ?_, hlength⟩
    · unfold swPrologue; omega
    · exact Nat.add_right_cancel hlength

end Sys2Proof.Machine
end

section
/-! A CALC from its acceptance to its end, on either path: after U_INIT the sequencer runs the path's schedule, and the
invariant says what U_FINAL then finds in `ACC`. With the software schedule this is CALC.SW (43_software_engine.md
R151, R158). -/

namespace Sys2Proof.Machine

/-! ## The schedule of a path -/

/-- The phase of a CALC on a path (45_dispatch.md R207). -/
def calcPhase (hw : Bool) : Phase := if hw then .calcHw else .calcSw

/-- The schedule of a path (43_software_engine.md R151, 44_hardware_engine.md R180). -/
def calcPick (hw : Bool) : Nat → Nat → Instr := if hw then hwNext else swNext

theorem calcPhase_inCalc (hw : Bool) : (calcPhase hw).inCalc = true := by
  cases hw <;> rfl

theorem nextUop_loop {hw : Bool} {s : State} (hp : s.phase = calcPhase hw) (hs : s.stage = .loop) :
    nextUop s = some (calcPick hw s.ptr s.rem) := by
  cases hw with
  | false => exact nextUop_calcSw hp hs
  | true => exact nextUop_calcHw hp hs

/-- A schedule picks these buffer micro-ops, one after the other from a `PTR` and a `REM` on, and then U_FINAL. -/
def Picks (pick : Nat → Nat → Instr) : List Instr → Nat → Nat → Prop
  | [], ptr, rem => pick ptr rem = .uFinal
  | i :: is, ptr, rem => pick ptr rem = i ∧ ∃ w, readWidth i = some w ∧ Picks pick is (ptr + w.bytes) (rem - w.bytes)

theorem Picks.head {pick : Nat → Nat → Instr} {is : List Instr} {ptr rem : Nat} (h : Picks pick is ptr rem) :
    some (pick ptr rem) = (is ++ [.uFinal])[0]? := by
  cases is with
  | nil => exact congrArg some h
  | cons i is => exact congrArg some h.1

theorem picks_swUops {fuel ptr rem : Nat} (h : rem ≤ fuel) : Picks swNext (swUops fuel ptr rem) ptr rem := by
  induction fuel generalizing ptr rem with
  | zero => rw [Nat.le_zero.1 h]; exact swNext_of_end ptr
  | succ fuel ih =>
    rcases Nat.eq_zero_or_pos rem with rfl | hpos
    · exact swNext_of_end ptr
    by_cases hb : ptr % 8 ≠ 0 ∨ rem < 8
    · rw [swUops_of_byte hpos hb]
      exact ⟨swNext_of_byte hpos hb, .one, rfl, ih (by omega)⟩
    · have h8 : 8 ≤ rem := by omega
      have halign : ptr % 8 = 0 := by omega
      rw [swUops_of_slice h8 halign]
      exact ⟨swNext_of_slice h8 halign, .eight, rfl, ih (by omega)⟩

/-! ## Runs -/

theorem BlockInv.keeps_steps {k : Nat} {s t : State} (h : BlockInv s) (hk : steps k s = .next t) : BlockInv t :=
  steps_induction (P := fun s t => BlockInv s → BlockInv t) (fun _ => id)
    (fun s t _ hst ih hs => ih (stepKeepsInvariant s t hs hst)) hk h

/-- The next micro-op runs when nothing waits on the bus. -/
theorem step_microOp {s t : State} {i : Instr} (hn : nextUop s = some i) (hbus : s.bus = [])
    (he : exec i s = .next t) : step s = .next (advance i t) := by
  rw [(stepRunsScheduledMicroOp s i hn).1 hbus, he]
  rfl

/-- A state with other operands of the buffer micro-ops. -/
def withOperands (acc : Word) (ptr rem : Nat) (s : State) : State := { s with acc := acc, ptr := ptr, rem := rem }

/-- A scheduled buffer micro-op on an admitted buffer. -/
theorem BlockInv.step_buffer {s : State} {i : Instr} {w : ReadWidth} (h : BlockInv s) (hadm : bufferAdmitted s)
    (hbus : s.bus = []) (hn : nextUop s = some i) (hi : readWidth i = some w) :
    ∃ x, step s = .next (withOperands x (s.ptr + w.bytes) (s.rem - w.bytes) s) := by
  obtain ⟨-, hge, hle, hsum, -⟩ := bufferReadsAlignedAndInside s i w h hn hi
  obtain ⟨x, hx⟩ := exec_buffer_form hi s
  rw [bufferMicroOp_admitted x (hadm s.ptr w hge hle), consume_of_le (by omega)] at hx
  refine ⟨x, (step_microOp hn hbus hx).trans ?_⟩
  rw [advance_buffer hi]
  rfl

/-- In its loop a CALC runs what its schedule picks. -/
theorem BlockInv.steps_loop {hw : Bool} {s : State} {is : List Instr} {n : Nat} (h : BlockInv s)
    (hp : s.phase = calcPhase hw) (hs : s.stage = .loop) (hbus : s.bus = []) (hadm : bufferAdmitted s)
    (hpicks : Picks (calcPick hw) is s.ptr s.rem) (hn : n ≤ is.length) :
    ∃ x p r, steps n s = .next (withOperands x p r s) ∧
      nextUop (withOperands x p r s) = (is ++ [.uFinal])[n]? := by
  induction n generalizing s is with
  | zero => exact ⟨s.acc, s.ptr, s.rem, rfl, (nextUop_loop hp hs).trans hpicks.head⟩
  | succ n ih =>
    cases is with
    | nil => cases hn
    | cons i is =>
      obtain ⟨hpick, w, hi, hrest⟩ := hpicks
      have hnext : nextUop s = some i := (nextUop_loop hp hs).trans (congrArg some hpick)
      obtain ⟨x, hx⟩ := h.step_buffer hadm hbus hnext hi
      rw [steps_succ_next hx]
      exact ih (s := withOperands x _ _ s) (stepKeepsInvariant _ _ h hx) hp hs hbus hadm hrest (Nat.le_of_succ_le_succ hn)

/-! ## A whole CALC -/

theorem badArguments_eq_false {d : DataKind} {k : InitKind} (hd : d = .bytes ∨ d = .text) (hk : k ≠ .notU32) :
    badArguments .bool d k = false := by
  cases k with
  | notU32 => exact absurd rfl hk
  | _ => rcases hd with rfl | rfl <;> rfl

theorem initialOf_eq_ite (k : InitKind) (s : State) : initialOf k s = if k = .default then 0#32 else s.init := by
  cases k <;> rfl

theorem acceptCalc_of_valid {hw : Bool} {f : FlagKind} {d : DataKind} {k : InitKind} {s : State}
    (hargs : badArguments f d k = false) (hfit : s.addr + s.len ≤ addrSpace s.cfg) (hlen : 0 < s.len)
    (hpath : hw = true → hwPresent s.cfg = true) :
    acceptCalc hw f d k s = startCalc hw (initialOf k s) (accept s) := by
  rcases acceptCalc_cases hw f d k s with ⟨hbad, -⟩ | ⟨-, hwrap, -⟩ | ⟨-, -, hh, hno, -⟩ | ⟨-, -, -, hzero, -⟩ |
    ⟨-, -, -, -, e⟩
  · rw [hargs] at hbad; cases hbad
  · rw [bufferWraps_eq_false.2 hfit] at hwrap; cases hwrap
  · rw [hpath hh] at hno; cases hno
  · omega
  · exact e

/-- A CALC on a path after U_INIT, accepted in `s` with an initial value. -/
def loopStart (hw : Bool) (c : Word) (s : State) : State :=
  { startCalc hw c (accept s) with acc := not32 c, stage := .loop }

section Calc
variable {hw : Bool} {c : Word} {s : State} {is : List Instr} (h : BlockInv (startCalc hw c (accept s)))
  (hbus : s.bus = []) (hadm : bufferAdmitted s) (hpicks : Picks (calcPick hw) is s.addr s.len)

theorem nextUop_startCalc : nextUop (startCalc hw c (accept s)) = some .uInit :=
  nextUop_first (calcPhase_inCalc hw) rfl

include hbus in
theorem step_startCalc : step (startCalc hw c (accept s)) = .next (loopStart hw c s) :=
  step_microOp nextUop_startCalc hbus rfl

include h hbus hadm hpicks

theorem steps_loopStart {n : Nat} (hn : n ≤ is.length) :
    ∃ x p r, steps (n + 1) (startCalc hw c (accept s)) = .next (withOperands x p r (loopStart hw c s)) ∧
      nextUop (withOperands x p r (loopStart hw c s)) = (is ++ [.uFinal])[n]? := by
  have hstep := step_startCalc (hw := hw) (c := c) hbus
  rw [steps_succ_next hstep]
  exact (stepKeepsInvariant _ _ h hstep).steps_loop (s := loopStart hw c s) rfl rfl hbus hadm hpicks hn

/-- The micro-ops of a CALC in order, U_INIT and U_FINAL among them. -/
theorem steps_startCalc {n : Nat} (hn : n < is.length + 2) :
    ∃ u, steps n (startCalc hw c (accept s)) = .next u ∧ u.phase = calcPhase hw ∧
      nextUop u = (.uInit :: (is ++ [.uFinal]))[n]? := by
  cases n with
  | zero => exact ⟨_, rfl, rfl, nextUop_startCalc⟩
  | succ n =>
    obtain ⟨x, p, r, hrun, hnext⟩ := steps_loopStart h hbus hadm hpicks (n := n) (by omega)
    exact ⟨_, hrun, rfl, hnext⟩

/-- U_FINAL delivers the CRC-32C of the buffer and ends the CALC (43_software_engine.md R158, 44_hardware_engine.md
R188). -/
theorem steps_startCalc_end : ∃ x, steps (is.length + 2) (startCalc hw c (accept s)) = .next
    { withOperands x (s.addr + s.len) 0 (loopStart hw c s) with
      result := crc32c c (bufferBytes s), err := .ok, phase := .idle } := by
  obtain ⟨x, p, r, hrun, hnext⟩ := steps_loopStart h hbus hadm hpicks le_rfl
  rw [List.getElem?_concat_length] at hnext
  have hinv := h.keeps_steps hrun
  obtain ⟨hc, -, hr⟩ := nextUop_uFinal hnext
  obtain ⟨-, hsum, -⟩ := hinv.calcRange hc
  obtain rfl : r = 0 := hr
  obtain rfl : p = s.addr + s.len := hsum
  have hacc : not32 x = crc32c c (bufferBytes s) :=
    (congrArg not32 (hinv.acc_at_uFinal rfl hnext)).trans (crc32c_eq_not32_fold c _).symm
  refine ⟨x, ?_⟩
  rw [steps_add hrun 1, steps_succ_next (step_microOp hnext hbus (exec_uFinal_of_not_raced rfl)), steps_zero, ← hacc]
  rfl

end Calc

/-- A valid CALC issued to an idle block, on either path, until it has completed. -/
theorem calc_run {hw : Bool} {s : State} {w : Word} {d : DataKind} {k : InitKind} {is : List Instr}
    (hinv : BlockInv s) (hp : s.phase = .idle) (hbus : s.bus = [.store .cmd w])
    (hdec : decodeCommand w = .ok (calcOn hw .bool d k)) (hd : d = .bytes ∨ d = .text) (hk : k ≠ .notU32)
    (hfit : s.addr + s.len ≤ addrSpace s.cfg) (hlen : 0 < s.len) (hpath : hw = true → hwPresent s.cfg = true)
    (hadm : bufferAdmitted s) (hpicks : Picks (calcPick hw) is s.addr s.len) :
    (∀ n < is.length + 2, ∃ u, steps (n + 1) s = .next u ∧ u.phase = calcPhase hw ∧
      nextUop u = (.uInit :: (is ++ [.uFinal]))[n]?) ∧
    ∃ t, steps (1 + (is.length + 2)) s = .next t ∧
      t.result = crc32c (if k = .default then 0#32 else s.init) (bufferBytes s) ∧
      t = { s with bus := [], err := .ok, result := t.result, acc := t.acc, ptr := s.addr + s.len, rem := 0,
                   initLatch := t.initLatch, stage := .loop, raced := false } := by
  have hissue : issues w s := ⟨hp, [], hbus⟩
  have hstep : step s = .next (startCalc hw (initialOf k s) (accept (afterEvent s))) := by
    rw [step_issue_ok hissue hdec, exec_calcOn,
      acceptCalc_of_valid (s := afterEvent s) (badArguments_eq_false hd hk) hfit hlen hpath]
    rfl
  have hempty : (afterEvent s).bus = [] := congrArg List.tail hbus
  have hstart := stepKeepsInvariant _ _ hinv hstep
  refine ⟨fun n hn => ?_, ?_⟩
  · rw [steps_succ_next hstep]
    exact steps_startCalc hstart hempty hadm hpicks hn
  · obtain ⟨x, hend⟩ := steps_startCalc_end hstart hempty hadm hpicks
    rw [Nat.add_comm 1, steps_succ_next hstep, hend]
    refine ⟨_, rfl, ?_, ?_⟩
    · exact congrArg (crc32c · _) (initialOf_eq_ite k s)
    · rw [← hp, ← hempty]
      rfl

/-- Settles O44: `calc_run` on the software path, whose schedule is `swUops`. -/
theorem calcSwComputesCrc32c : Obligations.CalcSwComputesCrc32c := by
  intro s w d k hinv hp hbus hdec hd hk hfit hlen hadm
  rw [← length_swUops]
  exact calc_run (hw := false) hinv hp hbus hdec hd hk hfit hlen nofun hadm (picks_swUops le_rfl)

end Sys2Proof.Machine
end

section
/-! The hardware folds (44_hardware_engine.md R181 to R184): each folds the bytes it reads, lowest address first, and
on a built table it is the table step of its width. -/

namespace Sys2Proof.Machine

/-! ## What a fold of a width does -/

/-- The four folds differ only in how many bytes they read. -/
theorem exec_hwFoldOf (w : ReadWidth) (s : State) :
    exec (hwFoldOf w) s = .next (bufferMicroOp w (fold s.acc (bytesAt s.mem s.ptr w.bytes)) s) := by
  rw [← valueBytes_memRead]
  cases w <;> rfl

theorem exec_hwFoldOf_admitted {w : ReadWidth} {s : State} (hr : w.bytes ≤ s.rem)
    (ha : memAdmit s.cfg s.ptr w = true) :
    exec (hwFoldOf w) s = .next { s with
      acc := fold s.acc (bytesAt s.mem s.ptr w.bytes), ptr := s.ptr + w.bytes, rem := s.rem - w.bytes } := by
  rw [exec_hwFoldOf, bufferMicroOp_admitted _ ha, consume_of_le hr]

theorem exec_hwFoldOf_unadmitted {w : ReadWidth} {s : State} (ha : memAdmit s.cfg s.ptr w = false) :
    exec (hwFoldOf w) s = .next (raiseFault .memoryFault s) := by
  rw [exec_hwFoldOf, bufferMicroOp_unadmitted _ ha]

/-- On a built table buffer micro-ops of one width do the same, whatever their path. -/
theorem exec_eq_of_readWidth_eq {i k : Instr} {w : ReadWidth} {s : State} (ht : ∀ j x, entryBuilt s.table j x)
    (hi : readWidth i = some w) (hk : readWidth k = some w) : exec i s = exec k s :=
  (exec_buffer_fold hi ht).trans (exec_buffer_fold hk ht).symm

/-! ## The bytes of a word as one value (R183) -/

theorem valueBytes_succ (n : Nat) (v : Word) :
    valueBytes (n + 1) v = v.extractLsb' 0 8 :: valueBytes n (v >>> 8) := by
  have hbyte (k : Nat) : v.extractLsb' (8 * (k + 1)) 8 = (v >>> 8).extractLsb' (8 * k) 8 := by
    ext x hx
    rw [BitVec.getElem_extractLsb', BitVec.getElem_extractLsb', BitVec.getLsbD_ushiftRight]
    congr 1
    omega
  simp only [valueBytes, List.range_succ_eq_map, List.map_cons, List.map_map, Function.comp_def, hbyte, Nat.mul_zero]

/-- Several divisions of a word fold its low bytes and shift the others down. -/
theorem div8_iterate_eq_fold (n : Nat) (v : Word) : div8^[n] v = fold 0#32 (valueBytes n v) ^^^ v >>> (8 * n) := by
  induction n generalizing v with
  | zero => simp [valueBytes]
  | succ n ih =>
    have hlength : (valueBytes n (v >>> 8)).length = n := by simp [valueBytes]
    rw [div8_iterate_low_byte, ih, valueBytes_succ, fold_zero_cons, hlength, ← BitVec.shiftRight_add,
      Nat.add_comm 8, BitVec.xor_assoc, Nat.mul_succ]

/-- Folding all four bytes of a word is `Div8` four times on the accumulator and the word together. -/
theorem fold_valueBytes_four (a v : Word) : fold a (valueBytes 4 v) = div8^[4] (a ^^^ v) := by
  have hword : div8^[4] v = fold 0#32 (valueBytes 4 v) := by
    rw [div8_iterate_eq_fold, BitVec.ushiftRight_eq_zero (by decide), BitVec.xor_zero]
  calc fold a (valueBytes 4 v) = fold 0#32 (valueBytes 4 v) ^^^ div8^[4] a := by
        rw [← BitVec.zero_xor (x := a), fold_xor, BitVec.zero_xor]; rfl
    _ = div8^[4] (a ^^^ v) := by rw [← hword, BitVec.xor_comm, div8_iterate_xor]

/-! ## The four folds -/

/-- Settles O28: the label is the encoder's, the effect `exec_hwFoldOf` of one byte, which is U_SW_BYTE's on a built
table. -/
theorem uHwFold1FoldsOneByte : Obligations.UHwFold1FoldsOneByte :=
  ⟨decodeOfEncode .uHwFold1 rfl, fun _ hr ha => exec_hwFoldOf_admitted (w := .one) hr ha,
    fun _ ha => exec_hwFoldOf_unadmitted (w := .one) ha,
    fun _ ht => exec_eq_of_readWidth_eq (w := .one) ht rfl rfl, by decide, by decide, by decide⟩

/-- Settles O29: the label is the encoder's, the effect `exec_hwFoldOf` of two bytes. -/
theorem uHwFold2FoldsTwoBytes : Obligations.UHwFold2FoldsTwoBytes :=
  ⟨decodeOfEncode .uHwFold2 rfl, fun _ hr ha => exec_hwFoldOf_admitted (w := .two) hr ha,
    fun _ ha => exec_hwFoldOf_unadmitted (w := .two) ha, by decide +kernel⟩

/-- Settles O30: the label is the encoder's, the effect `exec_hwFoldOf` of four bytes, and the value with memory's bytes
is the one read, whose fold is `fold_valueBytes_four`. -/
theorem uHwFold4FoldsFourBytes : Obligations.UHwFold4FoldsFourBytes := by
  refine ⟨decodeOfEncode .uHwFold4 rfl, fun s hr ha => exec_hwFoldOf_admitted (w := .four) hr ha,
    fun s v hr ha hv => ⟨_, exec_hwFoldOf_admitted (w := .four) hr ha, ?_⟩,
    fun s ha => exec_hwFoldOf_unadmitted (w := .four) ha, by decide +kernel⟩
  have hread : bytesAt s.mem s.ptr 4 = valueBytes 4 v := by rw [← valueBytes_memRead, ← eq_memRead (n := 4) hv]
  exact (congrArg (fold s.acc) hread).trans (fold_valueBytes_four s.acc v)

/-- Settles O31: the label is the encoder's, the effect `exec_hwFoldOf` of eight bytes, which is U_SW_SLICE8's on a
built table. -/
theorem uHwFold8FoldsEightBytes : Obligations.UHwFold8FoldsEightBytes :=
  ⟨decodeOfEncode .uHwFold8 rfl, fun _ hr ha => exec_hwFoldOf_admitted (w := .eight) hr ha,
    fun _ ha => exec_hwFoldOf_unadmitted (w := .eight) ha,
    fun _ ht => exec_eq_of_readWidth_eq (w := .eight) ht rfl rfl, by decide +kernel, by decide +kernel⟩

end Sys2Proof.Machine
end

section
/-! The hardware schedule (44_hardware_engine.md R185) and CALC.HW, which runs it (R188). -/

namespace Sys2Proof.Machine

/-- Whatever fits and is aligned is no wider than the chunk picked: a wider one is asked for first. -/
theorem bytes_le_hwWidth {w : ReadWidth} {ptr rem : Nat} (hfit : w.bytes ≤ rem) (halign : ptr % w.bytes = 0) :
    w.bytes ≤ (hwWidth ptr rem).bytes := by
  unfold hwWidth
  cases w with
  | eight => rw [if_pos ⟨hfit, halign⟩]
  | four =>
    rw [if_pos (c := 4 ≤ rem ∧ ptr % 4 = 0) ⟨hfit, halign⟩]
    split <;> decide
  | two =>
    rw [if_pos (c := 2 ≤ rem ∧ ptr % 2 = 0) ⟨hfit, halign⟩]
    split
    · decide
    · split <;> decide
  | one => exact ReadWidth.bytes_pos _

/-- Settles O36: the chunk fits and is aligned (`hwWidth_fits`), no wider one does both, and the sequences are
evaluated. -/
theorem hwWidthIsLargestAlignedChunk : Obligations.HwWidthIsLargestAlignedChunk := by
  refine ⟨fun ptr rem hr => ?_, by decide, by decide, by decide⟩
  obtain ⟨hfit, halign⟩ := hwWidth_fits (ptr := ptr) hr
  exact ⟨hfit, halign, fun _ => bytes_le_hwWidth⟩

theorem hwWidths_of_pos {rem : Nat} (hr : 0 < rem) (fuel ptr : Nat) :
    hwWidths (fuel + 1) ptr rem =
      hwWidth ptr rem :: hwWidths fuel (ptr + (hwWidth ptr rem).bytes) (rem - (hwWidth ptr rem).bytes) := by
  rw [hwWidths, if_neg (by omega)]

theorem hwNext_of_end (ptr : Nat) : hwNext ptr 0 = .uFinal := rfl

theorem picks_hwWidths {fuel ptr rem : Nat} (h : rem ≤ fuel) :
    Picks hwNext ((hwWidths fuel ptr rem).map hwFoldOf) ptr rem := by
  induction fuel generalizing ptr rem with
  | zero => rw [Nat.le_zero.1 h]; exact hwNext_of_end ptr
  | succ fuel ih =>
    rcases Nat.eq_zero_or_pos rem with rfl | hpos
    · exact hwNext_of_end ptr
    · have hbytes := ReadWidth.bytes_pos (hwWidth ptr rem)
      rw [hwWidths_of_pos hpos, List.map_cons]
      exact ⟨hwNext_of_pos hpos ptr, _, readWidth_hwFoldOf _, ih (by omega)⟩

theorem length_hwFolds (addr len : Nat) :
    ((hwWidths len addr len).map hwFoldOf).length + 2 = hwMicroOps addr len := by
  rw [List.length_map, hwMicroOps]
  omega

/-- Settles O45: `calc_run` on the hardware path, whose schedule is the folds of `hwWidths`. -/
theorem calcHwComputesCrc32c : Obligations.CalcHwComputesCrc32c := by
  intro s w d k hinv hp hbus hdec hd hk hfit hlen hpath hadm
  rw [← length_hwFolds]
  exact calc_run (hw := true) hinv hp hbus hdec hd hk hfit hlen (fun _ => hpath) hadm (picks_hwWidths le_rfl)

end Sys2Proof.Machine
end

section
/-! Dispatch (45_dispatch.md): what an accepted CALC does at each of its checks, on either path (R202 to R207), which
steps write `RESULT` (R209), and `Crc32c` with its chaining law (R210, R211). -/

namespace Sys2Proof.Machine

/-! ## `Crc32c` and its chaining law (R210, R211) -/

/-- Settles O41: `fold` is defined by R210's equations, the complement form covers the empty sequence, and the check
value is evaluated. -/
theorem crc32cIsComplementedFold : Obligations.Crc32cIsComplementedFold :=
  ⟨fold_nil, fun _ _ _ => rfl, crc32c_eq_not32_fold, by decide +kernel⟩

/-- Settles O42: between the two segments the complements cancel, and a fold of a concatenation is a fold after a
fold. -/
theorem crc32cChains : Obligations.Crc32cChains := by
  intro c bs cs
  calc crc32c (crc32c c bs) cs
    _ = not32 (fold (not32 (not32 (fold (not32 c) bs))) cs) := by
      rw [crc32c_eq_not32_fold, crc32c_eq_not32_fold c bs]
    _ = not32 (fold (not32 c) (bs ++ cs)) := by rw [not32_not32, fold_append]
    _ = crc32c c (bs ++ cs) := (crc32c_eq_not32_fold ..).symm

/-! ## The steps that write `RESULT` (R209) -/

theorem flag_of_badArguments_eq_false {f : FlagKind} {d : DataKind} {k : InitKind}
    (h : badArguments f d k = false) : f = .bool := by
  cases f with
  | bool => rfl
  | _ => cases h

/-- An acceptance of a CALC writes `RESULT` only at length zero, with valid arguments. -/
theorem acceptCalc_result_cases (hw : Bool) (f : FlagKind) (d : DataKind) (k : InitKind) (s : State) :
    (acceptCalc hw f d k s).result = s.result ∨ (f = .bool ∧ s.len = 0) := by
  rcases acceptCalc_cases hw f d k s with ⟨-, e⟩ | ⟨-, -, e⟩ | ⟨-, -, -, -, e⟩ | ⟨hargs, -, -, hlen, -⟩ |
    ⟨-, -, -, -, e⟩
  · rw [e]; exact .inl rfl
  · rw [e]; exact .inl rfl
  · rw [e]; exact .inl rfl
  · exact .inr ⟨flag_of_badArguments_eq_false hargs, hlen⟩
  · rw [e]; exact .inl rfl

/-- The instructions that write `RESULT`. -/
theorem exec_result_cases {i : Instr} {s t : State} (h : exec i s = .next t) :
    t.result = s.result ∨ i = .featq ∨ (∃ hw d k, i = calcOn hw .bool d k ∧ s.len = 0) ∨ i = .uFinal := by
  have onPath (hw : Bool) (f : FlagKind) (d : DataKind) (k : InitKind) (he : exec (calcOn hw f d k) s = .next t) :
      t.result = s.result ∨ ∃ hw' d' k', calcOn hw f d k = calcOn hw' .bool d' k' ∧ s.len = 0 := by
    cases (exec_calcOn hw f d k s).symm.trans he
    rcases acceptCalc_result_cases hw f d k s with hkept | ⟨rfl, hlen⟩
    · exact .inl hkept
    · exact .inr ⟨hw, d, k, rfl, hlen⟩
  by_cases hbuf : ∃ w, readWidth i = some w
  · obtain ⟨w, hw⟩ := hbuf
    obtain ⟨x, hx⟩ := exec_buffer_form hw s
    cases hx.symm.trans h
    exact .inl (bufferMicroOp_keeps State.result (by simp) (by simp) w x s)
  · cases i with
    | featq => exact .inr (.inl rfl)
    | tblgen => cases h; exact .inl rfl
    | calcSw f d k => exact (onPath false f d k h).imp_right fun hz => .inr (.inl hz)
    | calcHw f d k => exact (onPath true f d k h).imp_right fun hz => .inr (.inl hz)
    | uTgBase x => cases h; exact .inl rfl
    | uTgSlice j x => simp only [exec, execUTgSlice] at h; split at h <;> cases h; exact .inl rfl
    | uInit => cases h; exact .inl rfl
    | uFinal => exact .inr (.inr (.inr rfl))
    | _ => exact absurd ⟨_, rfl⟩ hbuf

/-- An instruction that runs on a busy block runs on the sequencer's turn. -/
theorem engineHasTurn_of_turn_run {s t : State} {i : Instr} (h : turn s = .run i t) (hbusy : s.phase.busy = true) :
    engineHasTurn s := by
  unfold turn at h
  split at h
  next hb => exact .inl hb
  next rest hb => exact .inr (.inl ⟨rest, hb⟩)
  next => cases h
  next => cases h
  next => cases h
  next => split at h <;> cases h
  next => cases h
  next r v rest hb => exact .inr (.inr ⟨hbusy, r, v, rest, hb⟩)

/-- What a step runs is the scheduled micro-op on the sequencer's turn, or an issued command. -/
theorem turn_run_origin {s t : State} {i : Instr} (h : turn s = .run i t) :
    (engineHasTurn s ∧ nextUop s = some i) ∨ ∃ w, issues w s ∧ decodeCommand w = .ok i := by
  obtain ⟨b, e⟩ := turn_run_withBus h
  rcases turn_run_cases h with ⟨hn, -⟩ | ⟨w, rest, hb, hd, hp, -⟩
  · have hns : nextUop s = some i := by rw [e] at hn; exact hn
    exact .inl ⟨engineHasTurn_of_turn_run h (busy_of_nextUop hns), hns⟩
  · exact .inr ⟨w, ⟨hp, rest, hb⟩, hd⟩

/-- The sequencer schedules no command. -/
theorem isCommand_of_nextUop {s : State} {i : Instr} (h : nextUop s = some i) : i.isCommand = false := by
  rcases nextUop_fits h with ⟨_, rfl, -⟩ | ⟨_, _, rfl, -⟩ | ⟨rfl, -⟩ | ⟨rfl, -⟩ | ⟨-, rfl, -⟩ | ⟨-, rfl, -⟩ |
    ⟨-, w, rfl, -⟩
  · rfl
  · rfl
  · rfl
  · rfl
  · rfl
  · rfl
  · cases w <;> rfl

theorem isCommand_calcOn (hw : Bool) (f : FlagKind) (d : DataKind) (k : InitKind) :
    (calcOn hw f d k).isCommand = true := by
  cases hw <;> rfl

/-- Settles O53: where nothing runs only reset writes `RESULT`, and `exec_result_cases` names the instructions that do,
of which U_FINAL is scheduled and the others are issued. -/
theorem onlyTheseStepsWriteResult : Obligations.OnlyTheseStepsWriteResult := by
  refine ⟨fun _ _ => rfl, fun s t h hne => ?_⟩
  rcases step_next_cases h with hq | ⟨i, u, v, hrun, he, rfl⟩
  · exact .inl ((turn_quiet_keeps State.result (fun _ => rfl) (by simp) (by simp) (by simp) writeReg_result (by simp)
      hq).resolve_left hne)
  rw [advance_result] at hne
  have horigin := turn_run_origin hrun
  obtain ⟨b, rfl⟩ := turn_run_withBus hrun
  rcases exec_result_cases he with hkept | rfl | ⟨hw, d, k, rfl, hlen⟩ | rfl <;>
    rcases horigin with ⟨hturn, hn⟩ | ⟨w, hissue, hd⟩
  · exact absurd hkept hne
  · exact absurd hkept hne
  · cases isCommand_of_nextUop hn
  · exact .inr (.inl ⟨w, hissue, hd⟩)
  · cases (isCommand_calcOn ..).symm.trans (isCommand_of_nextUop hn)
  · refine .inr (.inr (.inl ⟨w, d, k, hissue, hlen, ?_⟩))
    cases hw with
    | false => exact .inl hd
    | true => exact .inr hd
  · exact .inr (.inr (.inr ⟨hturn, hn⟩))
  · cases isCommand_of_decodeCommand hd

/-! ## Acceptance of a CALC (R200 to R207) -/

/-- Settles O6: `step_issue_ok`. -/
theorem stepRunsIssuedCommand : Obligations.StepRunsIssuedCommand := fun _ _ _ => step_issue_ok

theorem badArguments_eq_true_iff {f : FlagKind} {d : DataKind} {k : InitKind} : badArguments f d k = true ↔
    f = .notBool ∨ f = .absent ∨ d = .absent ∨ d = .other ∨ k = .notU32 := by
  simp only [badArguments, Bool.or_eq_true, beq_iff_eq, or_assoc]

/-- A CALC that fails an argument check leaves only its code on an idle block (R202, R204). -/
theorem exec_calcOn_of_rejected {f : FlagKind} {d : DataKind} {k : InitKind} {s : State} (hp : s.phase = .idle)
    (h : badArguments f d k = true ∨ bufferWraps s = true) (hw : Bool) :
    exec (calcOn hw f d k) s = .next { s with err := .invalidArgument } := by
  have hrejected : acceptCalc hw f d k s = complete .invalidArgument (accept s) := by
    rcases acceptCalc_cases hw f d k s with ⟨-, e⟩ | ⟨-, -, e⟩ | ⟨hargs, hwrap, -⟩ | ⟨hargs, hwrap, -⟩ |
      ⟨hargs, hwrap, -⟩
    · exact e
    · exact e
    all_goals simp [hargs, hwrap] at h
  rw [exec_calcOn, hrejected, complete_of_idle (s := accept s) hp]
  rfl

/-- Settles O20: the five conditions are `badArguments`, checked first on either path. -/
theorem calcRejectsBadArguments : Obligations.CalcRejectsBadArguments := by
  intro s f d k hp hbad
  have rejected := exec_calcOn_of_rejected hp (.inl (badArguments_eq_true_iff.2 hbad))
  exact ⟨rejected false, rejected true⟩

/-- Settles O21: the condition is `bufferWraps`, checked on either path after arguments whose failure has the same
effect. -/
theorem calcRejectsWrappingBuffer : Obligations.CalcRejectsWrappingBuffer := by
  intro s f d k hp hwrap
  have rejected := exec_calcOn_of_rejected (f := f) (d := d) (k := k) hp (.inr (decide_eq_true hwrap))
  exact ⟨rejected false, rejected true⟩

theorem hwPresent_eq_true_iff {p : Platform} :
    hwPresent p = true ↔ p.cpuidAvailable = true ∧ p.featureWord.getLsbD 20 = true :=
  Bool.and_eq_true_iff

/-- Settles O22: with the argument checks passed the path check is next, before `LEN` is looked at. -/
theorem calcHwFaultsWithoutPath : Obligations.CalcHwFaultsWithoutPath := by
  intro s d k hd hk hfit hno
  have hargs := badArguments_eq_false hd hk
  have hwrap : bufferWraps s = false := bufferWraps_eq_false.2 hfit
  have hpath : ¬hwPresent s.cfg = true := mt hwPresent_eq_true_iff.1 hno
  have hfault : acceptCalc true .bool d k s = raiseFault .hwPathUnsupported (accept s) := by
    rcases acceptCalc_cases true .bool d k s with ⟨hbad, -⟩ | ⟨-, hbad, -⟩ | ⟨-, -, -, -, e⟩ | ⟨-, -, hhas, -⟩ |
      ⟨-, -, hhas, -⟩
    · rw [hargs] at hbad; cases hbad
    · rw [hwrap] at hbad; cases hbad
    · exact e
    · exact absurd (hhas rfl) hpath
    · exact absurd (hhas rfl) hpath
  exact congrArg Host.Outcome.next hfault

/-- `ADDR` is below 2^ADDR_W, so an empty buffer never wraps. -/
theorem bufferWraps_of_len_zero {s : State} (h : s.len = 0) : bufferWraps s = false := by
  have haddr : s.addr < addrSpace s.cfg := Nat.mod_lt _ (addrSpace_pos s.cfg)
  exact bufferWraps_eq_false.2 (by omega)

/-- A zero-length CALC that passes the checks completes with its initial value (R206). -/
theorem exec_calcOn_of_len_zero {hw : Bool} {d : DataKind} {k : InitKind} {s : State} (hp : s.phase = .idle)
    (hd : d = .bytes ∨ d = .text) (hk : k ≠ .notU32) (hlen : s.len = 0) (hpath : hw = true → hwPresent s.cfg = true) :
    exec (calcOn hw .bool d k) s = .next { s with err := .ok, result := initialOf k s } := by
  have hzero : acceptCalc hw .bool d k s = complete .ok { accept s with result := initialOf k s } := by
    rcases acceptCalc_cases hw .bool d k s with ⟨hbad, -⟩ | ⟨-, hwrap, -⟩ | ⟨-, -, hh, hno, -⟩ | ⟨-, -, -, -, e⟩ |
      ⟨-, -, -, hpos, -⟩
    · rw [badArguments_eq_false hd hk] at hbad; cases hbad
    · rw [bufferWraps_of_len_zero hlen] at hwrap; cases hwrap
    · rw [hpath hh] at hno; cases hno
    · exact e
    · omega
  rw [exec_calcOn, hzero, complete_of_idle (s := { accept s with result := initialOf k s }) hp]
  rfl

/-- Settles O23: `exec_calcOn_of_len_zero` on each path, for each initial kind. -/
theorem zeroLengthReturnsInitial : Obligations.ZeroLengthReturnsInitial := by
  intro s d hp hd hlen
  have zero (hw : Bool) (hpath : hw = true → hwPresent s.cfg = true) (k : InitKind) (hk : k ≠ .notU32) :=
    exec_calcOn_of_len_zero hp hd hk hlen hpath
  exact ⟨zero false nofun .default nofun, zero false nofun .u32 nofun, fun hpath =>
    ⟨zero true (fun _ => hpath) .default nofun, zero true (fun _ => hpath) .u32 nofun⟩⟩

/-- Settles O24: a CALC that passes the checks is `startCalc` on either path (`acceptCalc_of_valid`). -/
theorem calcStarts : Obligations.CalcStarts := by
  intro s d k hd hk hfit hlen
  have starts (hw : Bool) (hpath : hw = true → hwPresent s.cfg = true) : ∃ t, exec (calcOn hw .bool d k) s = .next t ∧
      t = { s with err := .ok, initLatch := if k = .default then 0#32 else s.init, ptr := s.addr, rem := s.len,
                   phase := calcPhase hw, stage := .first, raced := false } ∧ nextUop t = some .uInit := by
    refine ⟨startCalc hw (initialOf k s) (accept s), ?_, ?_, nextUop_startCalc⟩
    · rw [exec_calcOn, acceptCalc_of_valid (badArguments_eq_false hd hk) hfit hlen hpath]
    · rw [← initialOf_eq_ite]; rfl
  exact ⟨starts false nofun, fun hpath => starts true fun _ => hpath⟩

end Sys2Proof.Machine
end

section
/-! Faults (60_exceptions.md): what fault entry writes (R226), that only reset leaves FAULTED (R227), and the two steps
that enter it (R221, R224, R225). -/

namespace Sys2Proof.Machine

/-! ## Fault entry (R226) -/

/-- `FAULT_ADDR` after a MEMORY_FAULT is `PTR`. -/
theorem faultAddr_raiseFault_memoryFault (s : State) :
    (raiseFault .memoryFault s).faultAddrHi ++ (raiseFault .memoryFault s).faultAddrLo = BitVec.ofNat 64 s.ptr :=
  BitVec.eq_of_toNat_eq (halves_toNat _)

/-- Settles O35: the three writes of MEMORY_FAULT, the two of HW_PATH_UNSUPPORTED, and the phase after either. -/
theorem faultEntryWritesOnlyThese : Obligations.FaultEntryWritesOnlyThese := by
  refine ⟨fun s => ⟨_, rfl, rfl, faultAddr_raiseFault_memoryFault s⟩, fun _ => rfl, fun s c => ?_⟩
  rw [raiseFault_phase]
  exact ⟨rfl, rfl⟩

/-! ## FAULTED until reset (R227) -/

theorem engineTurn_of_nextUop_none {s : State} (h : nextUop s = none) : engineTurn s = .quiet s := by
  unfold engineTurn; rw [h]

/-- A step in which no instruction runs keeps `PHASE`, unless it is a reset: an illegal command completes on a block
that is idle already. -/
theorem turn_quiet_phase {s t : State} (h : turn s = .quiet t) :
    t.phase = s.phase ∨ (t.phase = .resetTgen ∧ ∃ rest, s.bus = .reset :: rest) := by
  rcases turn_quiet_cases h with ⟨-, rfl⟩ | ⟨_, -, -, rfl⟩ | ⟨rest, hb, rfl⟩ | ⟨_, _, -, rfl⟩ | ⟨_, _, _, -, -, rfl⟩ |
    ⟨_, _, _, -, -, rfl⟩ | ⟨r, v, _, -, -, -, rfl⟩ | ⟨_, _, _, -, hidle, -, rfl⟩ | ⟨_, -, rfl⟩
  · exact .inl rfl
  · exact .inl rfl
  · exact .inr ⟨rfl, rest, hb⟩
  · exact .inl rfl
  · exact .inl rfl
  · exact .inl rfl
  · exact .inl (writeReg_phase r v _)
  · exact .inl hidle.symm
  · exact .inl (hostPoll_phase _)

/-- No instruction runs on a faulted block. -/
theorem turn_ne_run_of_faulted {s t : State} {i : Instr} (hp : s.phase = .faulted) : turn s ≠ .run i t := by
  intro h
  rcases turn_run_origin h with ⟨-, hn⟩ | ⟨_, ⟨hidle, -⟩, -⟩
  · cases (nextUop_idle_or_faulted (.inr hp)).symm.trans hn
  · cases hp.symm.trans hidle

/-- Settles O51: each event's step is its turn, nothing runs, and `turn_quiet_phase` leaves only the reset. -/
theorem faultedUntilReset : Obligations.FaultedUntilReset := by
  intro s hp
  have hnone : nextUop s = none := nextUop_idle_or_faulted (.inr hp)
  refine ⟨fun r v rest hb => step_quiet (turn_store_faulted hb hp), fun r rest hb => step_quiet (turn_load hb),
    fun rest hb => step_quiet ((turn_engine hb).trans (engineTurn_of_nextUop_none hnone)),
    fun hb => step_quiet ((turn_nil hb).trans (engineTurn_of_nextUop_none hnone)), fun t h => ?_, ?_⟩
  · rcases step_next_cases h with hq | ⟨i, u, v, hrun, -⟩
    · exact (turn_quiet_phase hq).imp (·.trans hp) And.right
    · exact absurd hrun (turn_ne_run_of_faulted hp)
  · rintro ⟨hidle, -⟩
    cases hp.symm.trans hidle

/-! ## The steps that fault (R221, R224, R225) -/

/-- The acceptance of a CALC faults only on the hardware path of a block without it. -/
theorem acceptCalc_faulted {hw : Bool} {f : FlagKind} {d : DataKind} {k : InitKind} {s : State}
    (h : (acceptCalc hw f d k s).phase = .faulted) :
    hw = true ∧ hwPresent s.cfg = false ∧ (acceptCalc hw f d k s).err = .hwPathUnsupported := by
  rcases acceptCalc_cases hw f d k s with ⟨-, e⟩ | ⟨-, -, e⟩ | ⟨-, -, hhw, hpath, e⟩ | ⟨-, -, -, -, e⟩ |
    ⟨-, -, -, -, e⟩
  · rw [e] at h; cases h
  · rw [e] at h; cases h
  · exact ⟨hhw, hpath, by rw [e, raiseFault_err]⟩
  · rw [e] at h; cases h
  · rw [e, startCalc_phase] at h
    split at h <;> cases h

/-- The instructions that fault: a CALC.HW without the path, and a buffer read that is not admitted. -/
theorem exec_faulted_cases {i : Instr} {s t : State} (h : exec i s = .next t) (hs : s.phase ≠ .faulted)
    (ht : t.phase = .faulted) :
    ((∃ f d k, i = .calcHw f d k) ∧ hwPresent s.cfg = false ∧ t.err = .hwPathUnsupported) ∨
    ∃ w, readWidth i = some w ∧ memAdmit s.cfg s.ptr w = false ∧ t = raiseFault .memoryFault s := by
  by_cases hbuf : ∃ w, readWidth i = some w
  · obtain ⟨w, hw⟩ := hbuf
    obtain ⟨x, hx⟩ := exec_buffer_form hw s
    cases hx.symm.trans h
    rcases bufferMicroOp_cases w x s with ⟨-, e⟩ | ⟨hadm, e⟩
    · rw [e, consume_phase] at ht
      exact absurd ht hs
    · exact .inr ⟨w, hw, hadm, e⟩
  · cases i with
    | featq => cases h; cases ht
    | tblgen => cases h; cases ht
    | calcSw f d k => cases h; cases (acceptCalc_faulted ht).1
    | calcHw f d k => cases h; exact .inl ⟨⟨f, d, k, rfl⟩, (acceptCalc_faulted ht).2⟩
    | uTgBase x => cases h; exact absurd ht hs
    | uTgSlice j x => simp only [exec, execUTgSlice] at h; split at h <;> cases h; exact absurd ht hs
    | uInit => cases h; exact absurd ht hs
    | uFinal => cases h; cases ht
    | _ => exact absurd ⟨_, rfl⟩ hbuf

/-- The sequencer's move enters no fault. -/
theorem faulted_of_advance_faulted {i : Instr} {s : State} (h : (advance i s).phase = .faulted) :
    s.phase = .faulted := by
  have build (j : BitVec 3) (x : BitVec 8) (hf : (advanceBuild j x s).phase = .faulted) : s.phase = .faulted := by
    rcases advanceBuild_cases j x s with ⟨-, e⟩ | ⟨-, -, e⟩ | ⟨-, -, e⟩ <;> rw [e] at hf
    · exact hf
    · exact hf
    · cases hf
  cases i with
  | uTgBase x => exact build _ _ h
  | uTgSlice j x => exact build _ _ h
  | _ => exact h

/-- Settles O52: only a running instruction enters FAULTED, `exec_faulted_cases` names the two that do, and of these
CALC.HW is issued and the buffer read is scheduled. -/
theorem onlyTheseStepsFault : Obligations.OnlyTheseStepsFault := by
  intro s t h hs ht
  rcases step_next_cases h with hq | ⟨i, u, v, hrun, he, rfl⟩
  · rcases turn_quiet_phase hq with hkept | ⟨hreset, -⟩
    · exact absurd (hkept.symm.trans ht) hs
    · cases hreset.symm.trans ht
  have horigin := turn_run_origin hrun
  obtain ⟨b, rfl⟩ := turn_run_withBus hrun
  rcases exec_faulted_cases he hs (faulted_of_advance_faulted ht) with ⟨⟨f, d, k, rfl⟩, hpath, herr⟩ |
    ⟨w, hw, hadm, rfl⟩
  · rcases horigin with ⟨-, hn⟩ | ⟨w, hissue, hd⟩
    · cases isCommand_of_nextUop hn
    · exact .inl ⟨herr, hpath, w, f, d, k, hissue, hd⟩
  · rcases horigin with ⟨hturn, hn⟩ | ⟨_, -, hd⟩
    · rw [advance_buffer hw]
      exact .inr ⟨raiseFault_err _ _, hturn, i, w, hn, hw, hadm, faultAddr_raiseFault_memoryFault _⟩
    · cases (readWidth_eq_none_of_isCommand (isCommand_of_decodeCommand hd)).symm.trans hw

end Sys2Proof.Machine
end

section
/-! Reset (70_reset_and_hazards.md): the table build it starts fills the table from any contents (R251). -/

namespace Sys2Proof.Machine

/-- Every entry has its place among the 2048 of a build, so a whole build leaves none of the table's old contents
(42_table_generator.md R134, R135). -/
theorem Table.entryBuilt_fill_whole (t : Table) (j : BitVec 3) (i : BitVec 8) : entryBuilt (t.fill 2048) j i :=
  t.entryBuilt_fill le_rfl j i (by omega)

/-- Settles O19: the run is `steps_build`, and each entry of the table it ends on is built, its value being
`tableValue`'s definition. -/
theorem resetBuildFillsTable : Obligations.ResetBuildFillsTable := fun s hp hj hi hbus =>
  ⟨s.table.fill 2048, steps_build (.inl hp) hbus hj hi, s.table.entryBuilt_fill_whole⟩

end Sys2Proof.Machine
end
